-- ==== Sys2Proof/Word.lean ====
section
/-! DEFINITION. The two widths of the hardware: a register (R7) and a byte of BUF (R50). -/

namespace Sys2Proof

/-- A register, a command word, a BUF address: 32 bits (00_scope.md R7, 20_memory.md R50). -/
abbrev Word := BitVec 32

/-- One byte of BUF (20_memory.md R50). -/
abbrev Byte := BitVec 8

end Sys2Proof
end

