-- ==== Sys2Proof/Config.lean ====
section
/-! DEFINITION. What the spec leaves to the implementation (its OPEN parameters) and the free values (its draws). Every
constant here that stands for an open value is opaque: no proof can see what it is. -/

namespace Sys2Proof

/-- MEM_BYTES less one. 00_scope.md R6 leaves MEM_BYTES OPEN between 1 and 2^32; the 32 bits of this constant are exactly
that range. Log entry 1. -/
opaque Config.memBytesLessOne : BitVec 32

/-- MEM_BYTES, the size of BUF in bytes (00_scope.md R6). -/
def Config.memBytes : Nat := Config.memBytesLessOne.toNat + 1

/-- REG_BASE, OPEN (00_scope.md R6, 20_memory.md R57). Log entry 1. -/
opaque Config.regBase : Nat

/-- BUF_BASE, OPEN (00_scope.md R6, 20_memory.md R57). Log entry 1. -/
opaque Config.bufBase : Nat

/-- What the BUF byte at an address holds until it is written: an independent draw per address (20_memory.md R50,
93_implementation_defined.md I1). Log entry 2. -/
opaque Config.powerOnByte : Nat → Byte

/-- What a host read of a byte in an in-flight command's write region returns: a fresh draw per read (20_memory.md R60,
93_implementation_defined.md I2), numbered by State.draws. Log entry 3. -/
opaque Config.busyReadByte : Nat → Byte

/-- What a write-region byte of the command in flight at a reset holds afterwards (70_reset_and_hazards.md R161,
93_implementation_defined.md I3): by the number of the draw and the byte's address. Log entry 4. -/
opaque Config.resetByte : Nat → Nat → Byte

/-- What the byte of a HAZARD write holds afterwards (20_memory.md R61 leaves it unspecified), numbered by State.draws.
Log entry 7. -/
opaque Config.hazardByte : Nat → Byte

/-- How many steps an accepted command's completion waits (70_reset_and_hazards.md R169: finite, unbounded;
93_implementation_defined.md I8), numbered by State.draws. Log entry 5. -/
opaque Config.completionDelay : Nat → Nat

end Sys2Proof
end

