-- ==== Sys2Proof/Syntax.lean ====
section
/-! DEFINITION. The commands of spec/opcode_table.json: one constructor a row. No command has an operand field
(30_encoding.md R70, R75): every operand is a latched register. -/

namespace Sys2Proof

/-- The nine commands of 30_encoding.md R71. -/
inductive Instr where
  /-- 40_binarizer.md R85 -/
  | binarize
  /-- 41_rgb565_packer.md R93 -/
  | packColor
  /-- 42_bitmap_sampler.md R100 -/
  | pack
  /-- 43_output_formatter.md R117 -/
  | formatRaw
  /-- 43_output_formatter.md R118 -/
  | formatHex
  /-- 43_output_formatter.md R120 -/
  | formatHexText
  /-- 43_output_formatter.md R124 -/
  | size
  /-- 43_output_formatter.md R126 -/
  | preview
  /-- 44_codec_facade.md R136 -/
  | generate
  deriving DecidableEq, Repr

end Sys2Proof
end

