-- ==== Sys2Proof/WellFormed.lean ====
section
/-! DEFINITION. Which raw data name something: a command word that selects a command, a host access that is no bus error,
a legal MEM_BYTES. -/

namespace Sys2Proof

/-- "A command word selects a command exactly when w[31:4] = 0 and w[3:0] is 0x1 to 0x9" (30_encoding.md R71). -/
def CommandWord.wf (w : Word) : Bool :=
  decide (w.extractLsb' 4 28 = 0) && decide (1 ≤ (w.extractLsb' 0 4).toNat) && decide ((w.extractLsb' 0 4).toNat ≤ 9)

/-- A command has no operand (30_encoding.md R70), so there is nothing in it that could be ill-formed: its
well-formedness is that its opcode is one of the nine. -/
def Instr.wf : Instr → Bool
  | .binarize | .packColor | .pack | .formatRaw | .formatHex | .formatHexText | .size | .preview | .generate => true

/-- A REG access is no bus error when it is 32 bits wide and its offset a multiple of 4 (20_memory.md R53, R54). -/
def RegAccess.wf (offset : BitVec 8) (width : Nat) : Bool :=
  decide (width = 32) && decide (offset.toNat % 4 = 0)

/-- A BUF access is no bus error when it is 8 bits wide and its address below MEM_BYTES (20_memory.md R52, R54). -/
def BufAccess.wf (memBytes : Nat) (addr : Nat) (width : Nat) : Bool :=
  decide (width = 8) && decide (addr < memBytes)

/-- 1 ≤ MEM_BYTES ≤ 2^32 (00_scope.md R6). -/
def MemBytes.wf (memBytes : Nat) : Bool :=
  decide (1 ≤ memBytes) && decide (memBytes ≤ 2 ^ 32)

end Sys2Proof
end

