-- ==== Sys2Proof/Decode.lean ====
section
/-! DEFINITION. The decoder of command words, total on all 2^32 of them, and the encoder (30_encoding.md R70 to R77). -/

namespace Sys2Proof

/-- Why a word is no command: each is a BAD_COMMAND error at completion (60_exceptions.md R148). -/
inductive DecodeError where
  /-- w[31:4] ≠ 0 (30_encoding.md R73): detail 0x02 -/
  | reservedBits
  /-- OPCODE 0x0 or 0xA to 0xF (30_encoding.md R72): detail 0x01 -/
  | reservedOpcode
  deriving DecidableEq, Repr

/-- The OPCODE field w[3:0] (30_encoding.md R70). -/
def opcodeField (w : Word) : BitVec 4 := w.extractLsb' 0 4

/-- The reserved field w[31:4] (30_encoding.md R70). -/
def reservedField (w : Word) : BitVec 28 := w.extractLsb' 4 28

/-- The opcode map of 30_encoding.md R71. -/
def instrOfOpcode (op : BitVec 4) : Option Instr :=
  match op.toNat with
  | 0x1 => some .binarize
  | 0x2 => some .packColor
  | 0x3 => some .pack
  | 0x4 => some .formatRaw
  | 0x5 => some .formatHex
  | 0x6 => some .formatHexText
  | 0x7 => some .size
  | 0x8 => some .preview
  | 0x9 => some .generate
  | _ => none

/-- A command word read whole (30_encoding.md R77). The reserved bits are looked at before the opcode (R73, R148). -/
def decodeWord (w : Word) : Except DecodeError Instr :=
  if reservedField w ≠ 0 then .error .reservedBits
  else
    match instrOfOpcode (opcodeField w) with
    | some i => .ok i
    | none => .error .reservedOpcode

/-- The OPCODE of a command (30_encoding.md R71). -/
def Instr.opcode : Instr → BitVec 4
  | .binarize => 0x1
  | .packColor => 0x2
  | .pack => 0x3
  | .formatRaw => 0x4
  | .formatHex => 0x5
  | .formatHexText => 0x6
  | .size => 0x7
  | .preview => 0x8
  | .generate => 0x9

/-- The command word of CMD <MNEMONIC>: the OPCODE zero-extended to 32 bits (30_encoding.md R78). -/
def encode (i : Instr) : Word := i.opcode.setWidth 32

/-- The decoder asked by a row of spec/opcode_table.json: every row is one 32-bit word, bits above nbits zero. -/
def decodeTableWord (nbits w : Nat) : Option Instr :=
  if nbits ≤ 32 ∧ w < 2 ^ nbits then
    match decodeWord (BitVec.ofNat 32 w) with
    | .ok i => some i
    | .error _ => none
  else none

end Sys2Proof
end

