-- ==== Sys2Proof/Machine/State.lean ====
section
/-! DEFINITION. Everything the spec gives the machine, as plain data: the parameters, the registers of 10_state.md R22, the
in-flight command of R45, BUF, the host agent of 00_scope.md R5, and the model's own bookkeeping of faults and free values. -/

namespace Sys2Proof.Machine

/-- The four sampling modes (10_state.md R30). -/
inductive Mode where
  | row
  | col
  | colRow
  | rowCol
  deriving DecidableEq, Repr

/-- The registers of the window, in the order of 10_state.md R22. -/
inductive Reg where
  | cmd
  | status
  | config
  | width
  | height
  | threshold
  | lineBreak
  | pixBase
  | pixLen
  | lmapBase
  | outBase
  | srcBase
  | srcLen
  | txtBase
  | resBytes
  | resBytesPerPage
  | resPageCount
  | resWidth
  | resHeight
  | resInfo
  | resTxtLen
  | resSize
  deriving DecidableEq, Repr

/-- The OPEN parameters of 00_scope.md R6: fixed for the machine, written by no step. Log entry 1. -/
structure Params where
  /-- MEM_BYTES -/
  memBytes : Nat
  /-- REG_BASE -/
  regBase : Nat
  /-- BUF_BASE -/
  bufBase : Nat
  deriving DecidableEq, Repr

/-- The fields of STATUS (10_state.md R24); bits 31:16 are not stored, they read as 0. -/
structure Status where
  /-- bit 0 -/
  busy : Bool
  /-- bit 1 -/
  done : Bool
  /-- bit 2 -/
  err : Bool
  /-- bit 3 -/
  overrun : Bool
  /-- bits 7:4 -/
  errCode : BitVec 4
  /-- bits 15:8 -/
  errDetail : BitVec 8
  deriving DecidableEq, Repr

/-- The twelve configuration registers, which are also what the latch snapshot L copies (10_state.md R42). -/
structure ConfigRegs where
  /-- CONFIG, 0x08 (R29) -/
  config : Word
  /-- WIDTH, 0x0C (R31) -/
  width : Word
  /-- HEIGHT, 0x10 (R31) -/
  height : Word
  /-- THRESHOLD, 0x14 (R32) -/
  threshold : Word
  /-- LINE_BREAK, 0x18 (R38) -/
  lineBreak : Word
  /-- PIX_BASE, 0x1C (R33) -/
  pixBase : Word
  /-- PIX_LEN, 0x20 (R33) -/
  pixLen : Word
  /-- LMAP_BASE, 0x24 (R34) -/
  lmapBase : Word
  /-- OUT_BASE, 0x28 (R35) -/
  outBase : Word
  /-- SRC_BASE, 0x2C (R36) -/
  srcBase : Word
  /-- SRC_LEN, 0x30 (R36) -/
  srcLen : Word
  /-- TXT_BASE, 0x34 (R37) -/
  txtBase : Word
  deriving DecidableEq, Repr

/-- The eight result registers (10_state.md R39). -/
structure ResultRegs where
  /-- RES_BYTES, 0x38 -/
  bytes : Word
  /-- RES_BYTES_PER_PAGE, 0x3C -/
  bytesPerPage : Word
  /-- RES_PAGE_COUNT, 0x40 -/
  pageCount : Word
  /-- RES_WIDTH, 0x44 -/
  width : Word
  /-- RES_HEIGHT, 0x48 -/
  height : Word
  /-- RES_INFO, 0x4C (R40) -/
  info : Word
  /-- RES_TXT_LEN, 0x50 -/
  txtLen : Word
  /-- RES_SIZE, 0x54 -/
  size : Word
  deriving DecidableEq, Repr

/-- An in-flight command: "a command word with its latch snapshot L" (10_state.md R45), and how many more steps its
completion waits (70_reset_and_hazards.md R169; log entry 5). -/
structure Inflight where
  word : Word
  latch : ConfigRegs
  delay : Nat
  deriving DecidableEq, Repr

/-- What the host, or the platform's reset input, can do to the block (20_memory.md R52 to R54, 30_encoding.md R79,
70_reset_and_hazards.md R161). Widths are in bits. -/
inductive HostOp where
  /-- a read of REG at an offset of its 256-byte window -/
  | readReg (offset : BitVec 8) (width : Nat)
  /-- a write to REG -/
  | writeReg (offset : BitVec 8) (width : Nat) (value : Word)
  /-- a read of BUF at a byte address -/
  | readBuf (addr : Nat) (width : Nat)
  /-- a write to BUF: bits 7:0 of the value are the byte -/
  | writeBuf (addr : Nat) (width : Nat) (value : Word)
  /-- an access by host bus address: a read when there is no data, else a write (20_memory.md R57) -/
  | bus (addr : Nat) (width : Nat) (data : Option Word)
  /-- the pseudo-instruction WAIT: read STATUS until DONE is 1 -/
  | waitDone
  /-- the reset input -/
  | reset
  deriving DecidableEq, Repr

/-- The host agent (00_scope.md R5): what it has still to issue, in program order (20_memory.md R55), and what its reads
have returned, newest first. Log entry 10. -/
structure HostAgent where
  todo : List HostOp
  replies : List Word
  deriving DecidableEq, Repr

/-- The sticky faults of the model (60_exceptions.md R155). Log entry 6. -/
structure FaultRecord where
  busError : Bool
  hazard : Bool
  deriving DecidableEq, Repr

/-- Memory: the bytes of BUF that something has written, by rising address; what any other address reads as is
unlistedByte (Machine/Ops.lean). -/
abbrev Memory := List Host.Cell

/-- Why a run stops (60_exceptions.md R155). -/
inductive Fault where
  /-- BUS_ERROR: raised by `step` in every state whose host has made an access of 20_memory.md R54. Safe: the block's own
  state did not change, and the run stops where a platform might go on. -/
  | busError
  /-- HAZARD: raised by `step` in every state whose host has written BUF inside an in-flight command's regions
  (20_memory.md R61). Safe: the run stops where the results are unspecified. -/
  | hazard
  deriving DecidableEq, Repr

/-- Why the model gives no meaning. -/
inductive Refusal where
  /-- a command without a meaning, raised by `exec` only; no arm of it does. Safe. -/
  | notModelled (mnemonic : String)
  /-- raised by a host access whose bus address lies in both windows: their placement is the platform's
  (20_memory.md R57), and the spec does not say which window answers. Safe. Log entry 12. -/
  | ambiguousBusAddress
  deriving DecidableEq, Repr

/-- The machine. -/
structure State where
  /-- the OPEN parameters (00_scope.md R6) -/
  params : Params
  /-- CMD, 0x00 (10_state.md R23) -/
  cmd : Word
  /-- STATUS, 0x04 (10_state.md R24) -/
  status : Status
  /-- the live configuration registers (10_state.md R29 to R38) -/
  cfg : ConfigRegs
  /-- the result registers (10_state.md R39) -/
  res : ResultRegs
  /-- the in-flight command (10_state.md R45) -/
  inflight : Option Inflight
  /-- BUF (20_memory.md R50) -/
  buf : Memory
  /-- the host agent (00_scope.md R5) -/
  host : HostAgent
  /-- the sticky faults (60_exceptions.md R155) -/
  faults : FaultRecord
  /-- the model's own: how many free values have been drawn (log entry 13) -/
  draws : Nat
  deriving DecidableEq, Repr

/-- STATUS after reset: 0 (10_state.md R48). -/
def Status.atReset : Status :=
  { busy := false, done := false, err := false, overrun := false, errCode := 0, errDetail := 0 }

/-- The configuration registers after reset: all zero but LINE_BREAK = 16 (10_state.md R48). -/
def ConfigRegs.atReset : ConfigRegs :=
  { config := 0, width := 0, height := 0, threshold := 0, lineBreak := 16, pixBase := 0, pixLen := 0, lmapBase := 0,
    outBase := 0, srcBase := 0, srcLen := 0, txtBase := 0 }

/-- The result registers after reset: all zero (10_state.md R48). -/
def ResultRegs.atReset : ResultRegs :=
  { bytes := 0, bytesPerPage := 0, pageCount := 0, width := 0, height := 0, info := 0, txtLen := 0, size := 0 }

/-- The machine right after power-on reset (10_state.md R48, 70_reset_and_hazards.md R161, R162): every register at its
reset value, no command in flight, no byte of BUF listed (each is a draw), nothing asked by the host yet. -/
def State.reset : State :=
  { params := { memBytes := Config.memBytes, regBase := Config.regBase, bufBase := Config.bufBase }
    cmd := 0
    status := Status.atReset
    cfg := ConfigRegs.atReset
    res := ResultRegs.atReset
    inflight := none
    buf := []
    host := { todo := [], replies := [] }
    faults := { busError := false, hazard := false }
    draws := 0 }

end Sys2Proof.Machine
end

