-- ==== Sys2Proof/Machine/Flags.lean ====
section
/-! DEFINITION. STATUS: its fields as the host reads them, the error codes and details, and the four events that write it
(10_state.md R24 to R28, R46; 60_exceptions.md R146, R147). -/

namespace Sys2Proof.Machine

/-- The thirteen (ERR_CODE, ERR_DETAIL) pairs of 60_exceptions.md R147: "No other (ERR_CODE, ERR_DETAIL) pair is
produced." -/
inductive CmdError where
  /-- INVALID_INPUT 0x01: WIDTH = 0 -/
  | zeroWidth
  /-- INVALID_INPUT 0x02: HEIGHT = 0 -/
  | zeroHeight
  /-- INVALID_INPUT 0x03: PIX_LEN ≠ 4·WIDTH·HEIGHT -/
  | pixLength
  /-- INVALID_INPUT 0x04: a LuminanceMap byte > 1 -/
  | mapValue
  /-- INVALID_CONFIG 0x01: CONFIG.MODE 4 to 7 -/
  | unknownMode
  /-- BAD_REGION 0x01: PIX out of bounds -/
  | pixBounds
  /-- BAD_REGION 0x02: LMAP out of bounds -/
  | lmapBounds
  /-- BAD_REGION 0x03: OUT out of bounds -/
  | outBounds
  /-- BAD_REGION 0x04: SRC out of bounds -/
  | srcBounds
  /-- BAD_REGION 0x05: TXT out of bounds -/
  | txtBounds
  /-- BAD_REGION 0x06: two regions of the command overlap -/
  | overlap
  /-- BAD_COMMAND 0x01: reserved OPCODE -/
  | reservedOpcode
  /-- BAD_COMMAND 0x02: command word bits 31:4 nonzero -/
  | reservedBits
  deriving DecidableEq, Repr

/-- ERR_CODE (60_exceptions.md R146). -/
def CmdError.code : CmdError → BitVec 4
  | .zeroWidth | .zeroHeight | .pixLength | .mapValue => 1
  | .unknownMode => 2
  | .pixBounds | .lmapBounds | .outBounds | .srcBounds | .txtBounds | .overlap => 3
  | .reservedOpcode | .reservedBits => 4

/-- ERR_DETAIL (60_exceptions.md R147). -/
def CmdError.detail : CmdError → BitVec 8
  | .zeroWidth | .unknownMode | .pixBounds | .reservedOpcode => 0x01
  | .zeroHeight | .lmapBounds | .reservedBits => 0x02
  | .pixLength | .outBounds => 0x03
  | .mapValue | .srcBounds => 0x04
  | .txtBounds => 0x05
  | .overlap => 0x06

/-- The BAD_COMMAND error of a word that is no command (60_exceptions.md R148). -/
def badCommand : DecodeError → CmdError
  | .reservedBits => .reservedBits
  | .reservedOpcode => .reservedOpcode

/-- One status bit as a one-bit field. -/
def flagBit (b : Bool) : BitVec 1 := BitVec.ofBool b

/-- STATUS as the host reads it: bits 31:16 read as 0 (10_state.md R24). -/
def Status.toWord (st : Status) : Word :=
  (0#16 ++ st.errDetail ++ st.errCode ++ flagBit st.overrun ++ flagBit st.err ++ flagBit st.done ++ flagBit st.busy :
    BitVec (16 + 8 + 4 + 1 + 1 + 1 + 1))

/-- Acceptance: BUSY <- 1 and every other field cleared (10_state.md R41). -/
def Status.accepted : Status :=
  { busy := true, done := false, err := false, overrun := false, errCode := 0, errDetail := 0 }

/-- A dropped CMD write: OVERRUN <- 1 and nothing else (10_state.md R43). -/
def Status.dropped (st : Status) : Status := { st with overrun := true }

/-- Successful completion (10_state.md R27, R44); OVERRUN is not changed by completion (R28). -/
def Status.succeeded (st : Status) : Status :=
  { busy := false, done := true, err := false, overrun := st.overrun, errCode := 0, errDetail := 0 }

/-- Error completion (10_state.md R27, 60_exceptions.md R150); OVERRUN unchanged. -/
def Status.failed (st : Status) (e : CmdError) : Status :=
  { busy := false, done := true, err := true, overrun := st.overrun, errCode := e.code, errDetail := e.detail }

end Sys2Proof.Machine
end

