-- ==== Sys2Proof/Machine/Operands.lean ====
section
/-! DEFINITION. The operands of the commands: the latched fields (10_state.md R29 to R38, 30_encoding.md R76), regions
(00_scope.md R11), the geometry and the sizes, and the read and write regions of every command (30_encoding.md R75). -/

namespace Sys2Proof.Machine

/-- ceil8(n) = floor((n + 7) / 8) (00_scope.md R9). -/
def ceil8 (n : Nat) : Nat := (n + 7) / 8

/-- CONFIG.INVERT, bit 0 (10_state.md R29). -/
def ConfigRegs.invert (L : ConfigRegs) : Bool := L.config.getLsbD 0

/-- CONFIG.REVERSE, bit 1: set is LSB-first (10_state.md R29, 90_conflicts.md C1). -/
def ConfigRegs.reverse (L : ConfigRegs) : Bool := L.config.getLsbD 1

/-- CONFIG.OUTMODE, bit 2: set is HexPrefixed (10_state.md R29). -/
def ConfigRegs.hexOut (L : ConfigRegs) : Bool := L.config.getLsbD 2

/-- CONFIG.COLOR, bit 3: set is Color (10_state.md R29). -/
def ConfigRegs.color (L : ConfigRegs) : Bool := L.config.getLsbD 3

/-- CONFIG.MODE, bits 6:4 (10_state.md R30). -/
def ConfigRegs.modeField (L : ConfigRegs) : BitVec 3 := L.config.extractLsb' 4 3

/-- The mode a MODE value names; 4 to 7 are unrecognized and never fall back to Row (10_state.md R30). -/
def modeOfField (b : BitVec 3) : Option Mode :=
  match b.toNat with
  | 0 => some .row
  | 1 => some .col
  | 2 => some .colRow
  | 3 => some .rowCol
  | _ => none

/-- The MODE value of a mode (10_state.md R30). -/
def Mode.number : Mode → Nat
  | .row => 0
  | .col => 1
  | .colRow => 2
  | .rowCol => 3

/-- The latched sampling mode, if it is recognized. -/
def ConfigRegs.mode (L : ConfigRegs) : Option Mode := modeOfField L.modeField

/-- W = L.WIDTH, unsigned (30_encoding.md R76). -/
def ConfigRegs.w (L : ConfigRegs) : Nat := L.width.toNat

/-- H = L.HEIGHT, unsigned (30_encoding.md R76). -/
def ConfigRegs.h (L : ConfigRegs) : Nat := L.height.toNat

/-- T = L.THRESHOLD[7:0] (30_encoding.md R76). -/
def ConfigRegs.thresholdValue (L : ConfigRegs) : Nat := (L.threshold.extractLsb' 0 8).toNat

/-- n = L.SRC_LEN, unsigned (30_encoding.md R76). -/
def ConfigRegs.n (L : ConfigRegs) : Nat := L.srcLen.toNat

/-- Region(base, len): the addresses base to base + len - 1 (00_scope.md R11). -/
structure Region where
  base : Nat
  len : Nat
  deriving DecidableEq, Repr

/-- In bounds of BUF, computed without wrap; an empty region always is (00_scope.md R11). -/
def Region.inBounds (memBytes : Nat) (r : Region) : Bool :=
  decide (r.len = 0) || decide (r.base + r.len ≤ memBytes)

/-- Two regions overlap when both are non-empty and share an address (00_scope.md R11). -/
def Region.overlaps (r q : Region) : Bool :=
  decide (r.len ≠ 0) && decide (q.len ≠ 0) && decide (r.base < q.base + q.len) && decide (q.base < r.base + r.len)

/-- The address is one of the region's. -/
def Region.contains (r : Region) (a : Nat) : Bool :=
  decide (r.base ≤ a) && decide (a < r.base + r.len)

/-- "any two of the used regions overlap" (44_codec_facade.md R136, R140). -/
def anyOverlap : List Region → Bool
  | [] => false
  | r :: rs => rs.any (r.overlaps ·) || anyOverlap rs

/-- bytesPerPage, the second column of 42_bitmap_sampler.md R101. -/
def Mode.bytesPerPage (mode : Mode) (W H : Nat) : Nat :=
  match mode with
  | .row | .rowCol => ceil8 W
  | .col | .colRow => ceil8 H

/-- packedSize, the third column of 42_bitmap_sampler.md R101. -/
def Mode.packedSize (mode : Mode) (W H : Nat) : Nat :=
  match mode with
  | .row | .rowCol => ceil8 W * H
  | .col | .colRow => ceil8 H * W

/-- The packed size of the latched mode; nothing when MODE is unrecognized (30_encoding.md R75). -/
def ConfigRegs.packSize (L : ConfigRegs) : Nat :=
  match L.mode with
  | some m => m.packedSize L.w L.h
  | none => 0

/-- textLen(n) (43_output_formatter.md R123). -/
def textLen (n : Nat) : Nat := if n = 0 then 0 else 6 * n - 2

/-- The packed size of GENERATE: 2·W·H in colour, else that of the mode (44_codec_facade.md R138). For an unrecognized
MODE in monochrome it is 0, DEDUCED from PACK's row of 30_encoding.md R75: log entry 11. -/
def ConfigRegs.generateSize (L : ConfigRegs) : Nat := if L.color then 2 * L.w * L.h else L.packSize

/-- tlen, the artifact length of GENERATE (44_codec_facade.md R138). -/
def ConfigRegs.generateTextLen (L : ConfigRegs) : Nat :=
  if L.hexOut then 4 * L.generateSize else L.generateSize

/-- PIX = Region(PIX_BASE, PIX_LEN) (30_encoding.md R75). -/
def ConfigRegs.pixRegion (L : ConfigRegs) : Region := { base := L.pixBase.toNat, len := L.pixLen.toNat }

/-- LMAP = Region(LMAP_BASE, W·H) (10_state.md R34). -/
def ConfigRegs.lmapRegion (L : ConfigRegs) : Region := { base := L.lmapBase.toNat, len := L.w * L.h }

/-- OUT = Region(OUT_BASE, len) (10_state.md R35). -/
def ConfigRegs.outRegion (L : ConfigRegs) (len : Nat) : Region := { base := L.outBase.toNat, len := len }

/-- SRC = Region(SRC_BASE, SRC_LEN) (10_state.md R36). -/
def ConfigRegs.srcRegion (L : ConfigRegs) : Region := { base := L.srcBase.toNat, len := L.n }

/-- TXT = Region(TXT_BASE, len) (10_state.md R37). -/
def ConfigRegs.txtRegion (L : ConfigRegs) (len : Nat) : Region := { base := L.txtBase.toNat, len := len }

/-- The read regions of a command (30_encoding.md R75). -/
def readRegions (i : Instr) (L : ConfigRegs) : List Region :=
  match i with
  | .binarize => [L.pixRegion]
  | .packColor => [L.pixRegion]
  | .pack => [L.lmapRegion]
  | .formatRaw => [L.srcRegion]
  | .formatHex => [L.srcRegion]
  | .formatHexText => [L.srcRegion]
  | .size => []
  | .preview => [L.lmapRegion]
  | .generate => [L.pixRegion]

/-- The write regions of a command (30_encoding.md R75), whether or not it will fail. -/
def writeRegions (i : Instr) (L : ConfigRegs) : List Region :=
  match i with
  | .binarize => [L.lmapRegion]
  | .packColor => [L.outRegion (2 * L.w * L.h)]
  | .pack => [L.outRegion L.packSize]
  | .formatRaw => [L.txtRegion L.n]
  | .formatHex => [L.txtRegion (4 * L.n)]
  | .formatHexText => [L.txtRegion (textLen L.n)]
  | .size => []
  | .preview => [L.txtRegion (L.h * (L.w + 1))]
  | .generate =>
    if L.color then [L.outRegion L.generateSize, L.txtRegion L.generateTextLen]
    else [L.lmapRegion, L.outRegion L.generateSize, L.txtRegion L.generateTextLen]

/-- Some region of the list has the address. -/
def anyContains (rs : List Region) (a : Nat) : Bool := rs.any (·.contains a)

/-- The read regions of an in-flight command; a word that is no command has none. -/
def inflightReads (c : Inflight) : List Region :=
  match decodeWord c.word with
  | .ok i => readRegions i c.latch
  | .error _ => []

/-- The write regions of an in-flight command; a word that is no command has none. -/
def inflightWrites (c : Inflight) : List Region :=
  match decodeWord c.word with
  | .ok i => writeRegions i c.latch
  | .error _ => []

end Sys2Proof.Machine
end

