-- ==== Sys2Proof/Machine/Ops.lean ====
section
/-! DEFINITION. The named operations: MemRead and MemWrite on BUF, the registers by offset, acceptance, dropping and
completion of a command (10_state.md R41 to R44, 60_exceptions.md R150), and the reset of the block (70_reset_and_hazards.md
R161). -/

namespace Sys2Proof.Machine

/-! ### BUF -/

/-- What an address that nothing has written reads as: a free value for each address (20_memory.md R50). Log entry 2. -/
def unlistedByte (a : Nat) : Byte := Config.powerOnByte a

/-- The listed byte at an address, if there is one. -/
def memLookup : Memory → Nat → Option Byte
  | [], _ => none
  | c :: m, a => if c.1 = a then some c.2 else memLookup m a

/-- MemRead(addr, 1) (00_scope.md R10). -/
def memRead (m : Memory) (a : Nat) : Byte :=
  match memLookup m a with
  | some v => v
  | none => unlistedByte a

/-- MemWrite(addr, 1, v) (00_scope.md R10), keeping the addresses rising. -/
def memWrite : Memory → Nat → Byte → Memory
  | [], a, v => [(a, v)]
  | c :: m, a, v =>
    if a < c.1 then (a, v) :: c :: m
    else if a = c.1 then (a, v) :: m
    else c :: memWrite m a v

/-- A command's writes, in order. -/
def memWriteAll : Memory → List Host.Cell → Memory
  | m, [] => m
  | m, c :: cs => memWriteAll (memWrite m c.1 c.2) cs

/-- Every listed address is above a bound, and the addresses rise. -/
def Memory.risesFrom : Nat → Memory → Bool
  | _, [] => true
  | lo, c :: m => decide (lo ≤ c.1) && Memory.risesFrom (c.1 + 1) m

/-- The canonical form: strictly rising addresses, so no repeats. -/
def Memory.wf (m : Memory) : Bool := Memory.risesFrom 0 m

/-- No listed address is outside BUF. -/
def Memory.within (memBytes : Nat) (m : Memory) : Bool := m.all fun c => decide (c.1 < memBytes)

/-- "index i at base + i" (20_memory.md R56): a byte sequence as cells. -/
def layOut : Nat → List Byte → List Host.Cell
  | _, [] => []
  | base, b :: bs => (base, b) :: layOut (base + 1) bs

/-- The n bytes from an address. -/
def readBytes (m : Memory) (base n : Nat) : List Byte := (List.range n).map fun i => memRead m (base + i)

/-! ### Completion -/

/-- The PackedBitmap metadata a packing command reports (10_state.md R39). -/
structure PackedMeta where
  bytes : Word
  bytesPerPage : Word
  pageCount : Word
  width : Word
  height : Word
  info : Word
  deriving DecidableEq, Repr

/-- What a successful command does: its MemWrites in order and the result registers it writes. -/
structure Effect where
  writes : List Host.Cell
  packed : Option PackedMeta
  txtLen : Option Word
  size : Option Word
  deriving DecidableEq, Repr

/-- The six registers of the PackedBitmap metadata, when the command writes them (10_state.md R39). -/
def writePacked (r : ResultRegs) (p : Option PackedMeta) : ResultRegs :=
  match p with
  | some q =>
    { r with bytes := q.bytes, bytesPerPage := q.bytesPerPage, pageCount := q.pageCount, width := q.width,
             height := q.height, info := q.info }
  | none => r

/-- A result register that the command writes or leaves. -/
def writeIfAny (old : Word) (new : Option Word) : Word :=
  match new with
  | some v => v
  | none => old

/-- The result registers after a successful command (10_state.md R39). -/
def writeResults (r : ResultRegs) (e : Effect) : ResultRegs :=
  { writePacked r e.packed with txtLen := writeIfAny r.txtLen e.txtLen, size := writeIfAny r.size e.size }

/-- `finish`: all MemWrites, all result registers and STATUS in one step, the in-flight command cleared (10_state.md R44). -/
def finishOk (s : State) (e : Effect) : State :=
  { s with buf := memWriteAll s.buf e.writes, res := writeResults s.res e, status := s.status.succeeded, inflight := none }

/-- `raise Error(code, detail)`: STATUS and nothing else, the in-flight command cleared (60_exceptions.md R150). -/
def raiseError (s : State) (e : CmdError) : State :=
  { s with status := s.status.failed e, inflight := none }

/-- The completion step of a command whose rule evaluated to a result (10_state.md R44). -/
def completeWith (s : State) (r : Except CmdError Effect) : Host.Outcome State Fault Refusal :=
  match r with
  | .ok e => .next (finishOk s e)
  | .error e => .next (raiseError s e)

/-- A command's checks, then its effect: "A command's pseudocode first runs all of its checks, then all of its writes"
(00_scope.md R10). -/
def checked (failure : Option CmdError) (effect : Unit → Effect) : Except CmdError Effect :=
  match failure with
  | some e => .error e
  | none => .ok (effect ())

/-- L: the latch snapshot of the in-flight command (10_state.md R42). With no command in flight, the snapshot that an
acceptance would take now. Log entry 8. -/
def State.latched (s : State) : ConfigRegs :=
  match s.inflight with
  | some c => c.latch
  | none => s.cfg

/-! ### Acceptance and dropping -/

/-- A CMD write while STATUS.BUSY = 0 (10_state.md R41, R42). The delay of the completion is a free value (log entry 5). -/
def accept (s : State) (w : Word) : State :=
  { s with
    cmd := w
    status := Status.accepted
    inflight := some { word := w, latch := s.cfg, delay := Config.completionDelay s.draws }
    draws := s.draws + 1 }

/-- A CMD write while STATUS.BUSY = 1 (10_state.md R43). -/
def drop (s : State) : State := { s with status := s.status.dropped }

/-- A host write of w to CMD: accepted or dropped by STATUS.BUSY (10_state.md R23). Log entry 16. -/
def writeCmd (s : State) (w : Word) : State := if s.status.busy then drop s else accept s w

/-! ### The register window -/

/-- The offset of a register (10_state.md R22). -/
def Reg.offset : Reg → BitVec 8
  | .cmd => 0x00
  | .status => 0x04
  | .config => 0x08
  | .width => 0x0C
  | .height => 0x10
  | .threshold => 0x14
  | .lineBreak => 0x18
  | .pixBase => 0x1C
  | .pixLen => 0x20
  | .lmapBase => 0x24
  | .outBase => 0x28
  | .srcBase => 0x2C
  | .srcLen => 0x30
  | .txtBase => 0x34
  | .resBytes => 0x38
  | .resBytesPerPage => 0x3C
  | .resPageCount => 0x40
  | .resWidth => 0x44
  | .resHeight => 0x48
  | .resInfo => 0x4C
  | .resTxtLen => 0x50
  | .resSize => 0x54

/-- The register at an offset, if the map lists one there (10_state.md R22). -/
def regAt (offset : BitVec 8) : Option Reg :=
  match offset.toNat with
  | 0x00 => some .cmd
  | 0x04 => some .status
  | 0x08 => some .config
  | 0x0C => some .width
  | 0x10 => some .height
  | 0x14 => some .threshold
  | 0x18 => some .lineBreak
  | 0x1C => some .pixBase
  | 0x20 => some .pixLen
  | 0x24 => some .lmapBase
  | 0x28 => some .outBase
  | 0x2C => some .srcBase
  | 0x30 => some .srcLen
  | 0x34 => some .txtBase
  | 0x38 => some .resBytes
  | 0x3C => some .resBytesPerPage
  | 0x40 => some .resPageCount
  | 0x44 => some .resWidth
  | 0x48 => some .resHeight
  | 0x4C => some .resInfo
  | 0x50 => some .resTxtLen
  | 0x54 => some .resSize
  | _ => none

/-- A read of a register: its current value, no side effect (10_state.md R49, 20_memory.md R60, R67). -/
def readReg (s : State) : Reg → Word
  | .cmd => s.cmd
  | .status => s.status.toWord
  | .config => s.cfg.config
  | .width => s.cfg.width
  | .height => s.cfg.height
  | .threshold => s.cfg.threshold
  | .lineBreak => s.cfg.lineBreak
  | .pixBase => s.cfg.pixBase
  | .pixLen => s.cfg.pixLen
  | .lmapBase => s.cfg.lmapBase
  | .outBase => s.cfg.outBase
  | .srcBase => s.cfg.srcBase
  | .srcLen => s.cfg.srcLen
  | .txtBase => s.cfg.txtBase
  | .resBytes => s.res.bytes
  | .resBytesPerPage => s.res.bytesPerPage
  | .resPageCount => s.res.pageCount
  | .resWidth => s.res.width
  | .resHeight => s.res.height
  | .resInfo => s.res.info
  | .resTxtLen => s.res.txtLen
  | .resSize => s.res.size

/-- The bits of CONFIG that store: 31:7 are reserved (10_state.md R29). -/
def configMask : Word := 0x7F

/-- The bits of THRESHOLD that store: 31:8 are reserved (10_state.md R32). -/
def thresholdMask : Word := 0xFF

/-- A write to a RW register of the configuration set; reserved bits are ignored (10_state.md R29, R32, R49). Any other
register is left alone. -/
def writeConfigReg (L : ConfigRegs) (r : Reg) (v : Word) : ConfigRegs :=
  match r with
  | .config => { L with config := v &&& configMask }
  | .width => { L with width := v }
  | .height => { L with height := v }
  | .threshold => { L with threshold := v &&& thresholdMask }
  | .lineBreak => { L with lineBreak := v }
  | .pixBase => { L with pixBase := v }
  | .pixLen => { L with pixLen := v }
  | .lmapBase => { L with lmapBase := v }
  | .outBase => { L with outBase := v }
  | .srcBase => { L with srcBase := v }
  | .srcLen => { L with srcLen := v }
  | .txtBase => { L with txtBase := v }
  | .cmd | .status | .resBytes | .resBytesPerPage | .resPageCount | .resWidth | .resHeight | .resInfo | .resTxtLen
  | .resSize => L

/-- A write of a register: CMD starts or drops a command, RW registers store, RO registers ignore (10_state.md R22, R49). -/
def writeReg (s : State) (r : Reg) (v : Word) : State :=
  match r with
  | .cmd => writeCmd s v
  | _ => { s with cfg := writeConfigReg s.cfg r v }

/-- A read at an offset: an unlisted one reads as zero (10_state.md R22). -/
def readOffset (s : State) (offset : BitVec 8) : Word :=
  match regAt offset with
  | some r => readReg s r
  | none => 0

/-- A write at an offset: an unlisted one ignores it (10_state.md R22). -/
def writeOffset (s : State) (offset : BitVec 8) (v : Word) : State :=
  match regAt offset with
  | some r => writeReg s r v
  | none => s

/-! ### Reset -/

/-- The addresses of a region that exist in BUF. -/
def regionAddrs (memBytes : Nat) (r : Region) : List Nat :=
  (List.range (min r.len (memBytes - r.base))).map (r.base + ·)

/-- The free values that the write regions of a command in flight take at a reset (70_reset_and_hazards.md R161). Log
entry 4. -/
def resetCells (memBytes draw : Nat) (rs : List Region) : List Host.Cell :=
  rs.flatMap fun r => (regionAddrs memBytes r).map fun a => (a, Config.resetByte draw a)

/-- BUF after a reset: "Reset writes no BUF byte", but the write regions of a command in flight become unspecified
(70_reset_and_hazards.md R161). -/
def resetBuf (s : State) : Memory :=
  match s.inflight with
  | some c => memWriteAll s.buf (resetCells s.params.memBytes s.draws (inflightWrites c))
  | none => s.buf

/-- The reset input (70_reset_and_hazards.md R161): registers at their reset values, no command in flight. The host, the
sticky faults (60_exceptions.md R155: "never cleared") and the parameters are outside the block. Log entry 14. -/
def resetBlock (s : State) : State :=
  { s with
    cmd := 0
    status := Status.atReset
    cfg := ConfigRegs.atReset
    res := ResultRegs.atReset
    inflight := none
    buf := resetBuf s
    draws := s.draws + 1 }

end Sys2Proof.Machine
end

