-- ==== Sys2Proof/Machine/Binarizer.lean ====
section
/-! DEFINITION. The binarizer: BINARIZE (40_binarizer.md R85 to R91). -/

namespace Sys2Proof.Machine

/-- lumBit(r, g, b, T), in exact arithmetic (40_binarizer.md R86, R91). -/
def lumBit (r g b : Byte) (T : Nat) : Byte :=
  if 299 * r.toNat + 587 * g.toNat + 114 * b.toNat > 1000 * T then 1 else 0

/-- The map value of pixel i; its alpha byte is not read (40_binarizer.md R87). -/
def lumPixel (L : ConfigRegs) (m : Memory) (i : Nat) : Byte :=
  let p := L.pixBase.toNat + 4 * i
  lumBit (memRead m p) (memRead m (p + 1)) (memRead m (p + 2)) L.thresholdValue

/-- The LuminanceMap: one byte a pixel, row-major (40_binarizer.md R85). -/
def luminanceMap (L : ConfigRegs) (m : Memory) : List Byte := (List.range (L.w * L.h)).map (lumPixel L m)

/-- The MemWrites of BINARIZE (40_binarizer.md R85). -/
def binarizeWrites (L : ConfigRegs) (m : Memory) : List Host.Cell := layOut L.lmapBase.toNat (luminanceMap L m)

/-- The checks of BINARIZE, in order (40_binarizer.md R85). -/
def binarizeError (memBytes : Nat) (L : ConfigRegs) : Option CmdError :=
  if L.w = 0 then some .zeroWidth
  else if L.h = 0 then some .zeroHeight
  else if L.pixLen.toNat ≠ 4 * L.w * L.h then some .pixLength
  else if !L.pixRegion.inBounds memBytes then some .pixBounds
  else if !L.lmapRegion.inBounds memBytes then some .lmapBounds
  else if L.pixRegion.overlaps L.lmapRegion then some .overlap
  else none

/-- BINARIZE as a pure function of the latch and BUF; it writes no result register (40_binarizer.md R85). -/
def binarize (memBytes : Nat) (L : ConfigRegs) (m : Memory) : Except CmdError Effect :=
  checked (binarizeError memBytes L) fun _ =>
    { writes := binarizeWrites L m, packed := none, txtLen := none, size := none }

/-- BINARIZE. -/
def execBinarize (s : State) : Host.Outcome State Fault Refusal :=
  completeWith s (binarize s.params.memBytes s.latched s.buf)

end Sys2Proof.Machine
end

