-- ==== Sys2Proof/Machine/ColorPacker.lean ====
section
/-! DEFINITION. The rgb565_packer: PACK_COLOR (41_rgb565_packer.md R93 to R99). -/

namespace Sys2Proof.Machine

/-- rgb565(r, g, b): v[15:11] = r[7:3], v[10:5] = g[7:2], v[4:0] = b[7:3] (41_rgb565_packer.md R94). -/
def rgb565 (r g b : Byte) : BitVec 16 :=
  (r.extractLsb' 3 5 ++ g.extractLsb' 2 6 ++ b.extractLsb' 3 5 : BitVec (5 + 6 + 5))

/-- INVERT complements an emitted byte (41_rgb565_packer.md R96). -/
def invertByte (inv : Bool) (v : Byte) : Byte := if inv then ~~~v else v

/-- The two bytes of pixel i, high byte first; its alpha byte is not read (41_rgb565_packer.md R93, R95). -/
def colorPixel (L : ConfigRegs) (m : Memory) (i : Nat) : List Byte :=
  let p := L.pixBase.toNat + 4 * i
  let v := rgb565 (memRead m p) (memRead m (p + 1)) (memRead m (p + 2))
  [invertByte L.invert (v.extractLsb' 8 8), invertByte L.invert (v.extractLsb' 0 8)]

/-- The packed colour bytes, in source pixel order (41_rgb565_packer.md R95). -/
def colorBytes (L : ConfigRegs) (m : Memory) : List Byte := (List.range (L.w * L.h)).flatMap (colorPixel L m)

/-- The MemWrites of PACK_COLOR (41_rgb565_packer.md R93). -/
def packColorWrites (L : ConfigRegs) (m : Memory) : List Host.Cell := layOut L.outBase.toNat (colorBytes L m)

/-- RES_INFO after a colour packing: MODE_USED 0, COLOR_USED 1 (10_state.md R40). -/
def colorInfo : Word := 0x00000008

/-- The metadata of PACK_COLOR: one page per pixel row (41_rgb565_packer.md R97). Every number fits in 32 bits: log entry
17. -/
def colorMeta (L : ConfigRegs) : PackedMeta :=
  { bytes := BitVec.ofNat 32 (2 * L.w * L.h)
    bytesPerPage := BitVec.ofNat 32 (2 * L.w)
    pageCount := BitVec.ofNat 32 L.h
    width := L.width
    height := L.height
    info := colorInfo }

/-- The checks of PACK_COLOR, in order; MODE is not one of them (41_rgb565_packer.md R93, R98). -/
def packColorError (memBytes : Nat) (L : ConfigRegs) : Option CmdError :=
  if L.w = 0 then some .zeroWidth
  else if L.h = 0 then some .zeroHeight
  else if L.pixLen.toNat ≠ 4 * L.w * L.h then some .pixLength
  else if !L.pixRegion.inBounds memBytes then some .pixBounds
  else if !(L.outRegion (2 * L.w * L.h)).inBounds memBytes then some .outBounds
  else if L.pixRegion.overlaps (L.outRegion (2 * L.w * L.h)) then some .overlap
  else none

/-- PACK_COLOR as a pure function of the latch and BUF (41_rgb565_packer.md R93). -/
def packColor (memBytes : Nat) (L : ConfigRegs) (m : Memory) : Except CmdError Effect :=
  checked (packColorError memBytes L) fun _ =>
    { writes := packColorWrites L m, packed := some (colorMeta L), txtLen := none, size := none }

/-- PACK_COLOR. -/
def execPackColor (s : State) : Host.Outcome State Fault Refusal :=
  completeWith s (packColor s.params.memBytes s.latched s.buf)

end Sys2Proof.Machine
end

