-- ==== Sys2Proof/Machine/Sampler.lean ====
section
/-! DEFINITION. The bitmap_sampler: PACK (42_bitmap_sampler.md R100 to R111). -/

namespace Sys2Proof.Machine

/-- place(mode, x, y, W, H, bpp): the byte index pos and the bit offset off of a pixel (42_bitmap_sampler.md R101). -/
def place (mode : Mode) (x y W H : Nat) : Nat × Nat :=
  match mode with
  | .row => (y * mode.bytesPerPage W H + x / 8, x % 8)
  | .col => (x * mode.bytesPerPage W H + y / 8, y % 8)
  | .colRow => (x + y / 8 * W, y % 8)
  | .rowCol => (x / 8 * H + y, x % 8)

/-- The bit number of an offset: REVERSE clear is MSB-first (42_bitmap_sampler.md R104). -/
def bitNumber (rev : Bool) (off : Nat) : Nat := if rev then off else 7 - off

/-- The map byte of pixel (x, y) (10_state.md R34). -/
def mapByte (L : ConfigRegs) (m : Memory) (x y : Nat) : Byte := memRead m (L.lmapBase.toNat + y * L.w + x)

/-- The pixel's value after polarity (42_bitmap_sampler.md R103). -/
def pixelValue (inv : Bool) (v : Byte) : Byte := if inv then 1 - v else v

/-- The pixels of an image, row-major. -/
def pixelCoords (W H : Nat) : List (Nat × Nat) :=
  (List.range H).flatMap fun y => (List.range W).map fun x => (x, y)

/-- One pixel of the packing loop: a value of 0 sets the pixel's bit, a value of 1 leaves it
(42_bitmap_sampler.md R100, R105). -/
def packPixel (L : ConfigRegs) (mode : Mode) (m : Memory) (out : List Byte) (p : Nat × Nat) : List Byte :=
  if pixelValue L.invert (mapByte L m p.1 p.2) = 0 then
    out.modify (place mode p.1 p.2 L.w L.h).1 fun b =>
      b ||| (1#8 <<< bitNumber L.reverse (place mode p.1 p.2 L.w L.h).2)
  else out

/-- The packed bytes: a zero-initialized buffer and the packing loop (42_bitmap_sampler.md R100). -/
def packBytes (L : ConfigRegs) (mode : Mode) (m : Memory) : List Byte :=
  (pixelCoords L.w L.h).foldl (packPixel L mode m) (List.replicate (mode.packedSize L.w L.h) 0)

/-- The MemWrites of PACK (42_bitmap_sampler.md R100). -/
def packWrites (L : ConfigRegs) (mode : Mode) (m : Memory) : List Host.Cell :=
  layOut L.outBase.toNat (packBytes L mode m)

/-- The metadata of PACK (42_bitmap_sampler.md R106). -/
def packMeta (L : ConfigRegs) (mode : Mode) : PackedMeta :=
  { bytes := BitVec.ofNat 32 (mode.packedSize L.w L.h)
    bytesPerPage := BitVec.ofNat 32 (mode.bytesPerPage L.w L.h)
    pageCount := BitVec.ofNat 32 (mode.packedSize L.w L.h / mode.bytesPerPage L.w L.h)
    width := L.width
    height := L.height
    info := BitVec.ofNat 32 mode.number }

/-- Some byte of the LuminanceMap is neither 0x00 nor 0x01 (42_bitmap_sampler.md R102). -/
def badMapValue (L : ConfigRegs) (m : Memory) : Bool :=
  (List.range (L.w * L.h)).any fun i => decide ((memRead m (L.lmapBase.toNat + i)).toNat > 1)

/-- The checks of PACK once the mode is recognized, in order (42_bitmap_sampler.md R100). -/
def packError (memBytes : Nat) (L : ConfigRegs) (mode : Mode) (m : Memory) : Option CmdError :=
  if L.w = 0 then some .zeroWidth
  else if L.h = 0 then some .zeroHeight
  else if !L.lmapRegion.inBounds memBytes then some .lmapBounds
  else if !(L.outRegion (mode.packedSize L.w L.h)).inBounds memBytes then some .outBounds
  else if L.lmapRegion.overlaps (L.outRegion (mode.packedSize L.w L.h)) then some .overlap
  else if badMapValue L m then some .mapValue
  else none

/-- PACK as a pure function of the latch and BUF; the mode is checked first (42_bitmap_sampler.md R100). -/
def pack (memBytes : Nat) (L : ConfigRegs) (m : Memory) : Except CmdError Effect :=
  match L.mode with
  | none => .error .unknownMode
  | some mode =>
    checked (packError memBytes L mode m) fun _ =>
      { writes := packWrites L mode m, packed := some (packMeta L mode), txtLen := none, size := none }

/-- PACK. -/
def execPack (s : State) : Host.Outcome State Fault Refusal :=
  completeWith s (pack s.params.memBytes s.latched s.buf)

end Sys2Proof.Machine
end

