-- ==== Sys2Proof/Machine/Formatter.lean ====
section
/-! DEFINITION. The output_formatter: FORMAT_RAW, FORMAT_HEX, FORMAT_HEX_TEXT, SIZE, PREVIEW (43_output_formatter.md R116 to
R127). The byte values of the characters are those of 00_scope.md R12 (log entry 15). -/

namespace Sys2Proof.Machine

/-- '0' (00_scope.md R12). -/
def charZero : Byte := 0x30

/-- '1' (00_scope.md R12). -/
def charOne : Byte := 0x31

/-- 'a' (00_scope.md R12). -/
def charA : Byte := 0x61

/-- 'x' (00_scope.md R12). -/
def charX : Byte := 0x78

/-- ',' (00_scope.md R12). -/
def charComma : Byte := 0x2C

/-- ' ' (00_scope.md R12). -/
def charSpace : Byte := 0x20

/-- The line break (00_scope.md R12). -/
def charNewline : Byte := 0x0A

/-- hex(d): '0' to '9', 'a' to 'f' (43_output_formatter.md R119). -/
def hexChar (d : BitVec 4) : Byte :=
  if d.toNat < 10 then charZero + d.setWidth 8 else charA + (d.setWidth 8 - 10)

/-- token(v): the four characters '0', 'x', hex(v[7:4]), hex(v[3:0]) (43_output_formatter.md R119). -/
def token (v : Byte) : List Byte := [charZero, charX, hexChar (v.extractLsb' 4 4), hexChar (v.extractLsb' 0 4)]

/-- The tokens of a byte sequence, with no separator (43_output_formatter.md R118). -/
def hexTokens (bs : List Byte) : List Byte := bs.flatMap token

/-- The separator after token i when another follows (43_output_formatter.md R121, R122). -/
def separator (B i : Nat) : List Byte :=
  if B ≠ 0 ∧ (i + 1) % B = 0 then [charComma, charNewline] else [charComma, charSpace]

/-- The display string of the tokens from index i on (43_output_formatter.md R120). -/
def hexText (B : Nat) : Nat → List Byte → List Byte
  | _, [] => []
  | _, [v] => token v
  | i, v :: w :: vs => token v ++ separator B i ++ hexText B (i + 1) (w :: vs)

/-- The source bytes of the standalone formatter commands (43_output_formatter.md R116). -/
def sourceBytes (L : ConfigRegs) (m : Memory) : List Byte := readBytes m L.srcBase.toNat L.n

/-- The checks of the formatter commands for an output of len bytes, in order; none when SRC_LEN = 0
(43_output_formatter.md R116). -/
def formatError (memBytes : Nat) (L : ConfigRegs) (len : Nat) : Option CmdError :=
  if L.n = 0 then none
  else if !L.srcRegion.inBounds memBytes then some .srcBounds
  else if !(L.txtRegion len).inBounds memBytes then some .txtBounds
  else if L.srcRegion.overlaps (L.txtRegion len) then some .overlap
  else none

/-- A formatter command that writes text at TXT_BASE: its length goes to RES_TXT_LEN (43_output_formatter.md R116). -/
def formatted (memBytes : Nat) (L : ConfigRegs) (len : Nat) (text : Unit → List Byte) : Except CmdError Effect :=
  checked (formatError memBytes L len) fun _ =>
    { writes := layOut L.txtBase.toNat (text ()), packed := none, txtLen := some (BitVec.ofNat 32 len), size := none }

/-- FORMAT_RAW as a pure function of the latch and BUF (43_output_formatter.md R117). -/
def formatRaw (memBytes : Nat) (L : ConfigRegs) (m : Memory) : Except CmdError Effect :=
  formatted memBytes L L.n fun _ => sourceBytes L m

/-- FORMAT_HEX as a pure function of the latch and BUF (43_output_formatter.md R118). -/
def formatHex (memBytes : Nat) (L : ConfigRegs) (m : Memory) : Except CmdError Effect :=
  formatted memBytes L (4 * L.n) fun _ => hexTokens (sourceBytes L m)

/-- FORMAT_HEX_TEXT as a pure function of the latch and BUF (43_output_formatter.md R120). -/
def formatHexText (memBytes : Nat) (L : ConfigRegs) (m : Memory) : Except CmdError Effect :=
  formatted memBytes L (textLen L.n) fun _ => hexText L.lineBreak.toNat 0 (sourceBytes L m)

/-- SIZE: no BUF byte read, no region checked (43_output_formatter.md R124). -/
def sizeCommand (L : ConfigRegs) : Except CmdError Effect :=
  .ok { writes := [], packed := none, txtLen := none, size := some L.srcLen }

/-- Kilobytes: the exact rational RES_SIZE / 1024, which no register holds (43_output_formatter.md R125). -/
def kilobytes (sizeRecord : Word) : Rat := (sizeRecord.toNat : Rat) / 1024

/-- A map value rendered as it is stored (43_output_formatter.md R127). -/
def previewChar (v : Byte) : Byte := if v = 1 then charOne else charZero

/-- The text of PREVIEW: H lines of W characters, each ending in a line break (43_output_formatter.md R126). -/
def previewText (L : ConfigRegs) (m : Memory) : List Byte :=
  (List.range L.h).flatMap fun y =>
    ((List.range L.w).map fun x => previewChar (mapByte L m x y)) ++ [charNewline]

/-- The checks of PREVIEW, in order (43_output_formatter.md R126). -/
def previewError (memBytes : Nat) (L : ConfigRegs) (m : Memory) : Option CmdError :=
  if L.w = 0 then some .zeroWidth
  else if L.h = 0 then some .zeroHeight
  else if !L.lmapRegion.inBounds memBytes then some .lmapBounds
  else if !(L.txtRegion (L.h * (L.w + 1))).inBounds memBytes then some .txtBounds
  else if L.lmapRegion.overlaps (L.txtRegion (L.h * (L.w + 1))) then some .overlap
  else if badMapValue L m then some .mapValue
  else none

/-- PREVIEW as a pure function of the latch and BUF (43_output_formatter.md R126). -/
def preview (memBytes : Nat) (L : ConfigRegs) (m : Memory) : Except CmdError Effect :=
  checked (previewError memBytes L m) fun _ =>
    { writes := layOut L.txtBase.toNat (previewText L m), packed := none,
      txtLen := some (BitVec.ofNat 32 (L.h * (L.w + 1))), size := none }

/-- FORMAT_RAW. -/
def execFormatRaw (s : State) : Host.Outcome State Fault Refusal :=
  completeWith s (formatRaw s.params.memBytes s.latched s.buf)

/-- FORMAT_HEX. -/
def execFormatHex (s : State) : Host.Outcome State Fault Refusal :=
  completeWith s (formatHex s.params.memBytes s.latched s.buf)

/-- FORMAT_HEX_TEXT. -/
def execFormatHexText (s : State) : Host.Outcome State Fault Refusal :=
  completeWith s (formatHexText s.params.memBytes s.latched s.buf)

/-- SIZE. -/
def execSize (s : State) : Host.Outcome State Fault Refusal :=
  completeWith s (sizeCommand s.latched)

/-- PREVIEW. -/
def execPreview (s : State) : Host.Outcome State Fault Refusal :=
  completeWith s (preview s.params.memBytes s.latched s.buf)

end Sys2Proof.Machine
end

