-- ==== Sys2Proof/Machine/Facade.lean ====
section
/-! DEFINITION. The sequencer: GENERATE (44_codec_facade.md R136 to R142). -/

namespace Sys2Proof.Machine

/-- The regions GENERATE uses: PIX, OUT, TXT and, in monochrome, LMAP (44_codec_facade.md R136). -/
def generateRegions (L : ConfigRegs) : List Region :=
  if L.color then [L.pixRegion, L.outRegion L.generateSize, L.txtRegion L.generateTextLen]
  else [L.pixRegion, L.lmapRegion, L.outRegion L.generateSize, L.txtRegion L.generateTextLen]

/-- The checks of GENERATE once the mode is recognized, in order (44_codec_facade.md R136). -/
def generateError (memBytes : Nat) (L : ConfigRegs) : Option CmdError :=
  if L.w = 0 then some .zeroWidth
  else if L.h = 0 then some .zeroHeight
  else if L.pixLen.toNat ≠ 4 * L.w * L.h then some .pixLength
  else if !L.pixRegion.inBounds memBytes then some .pixBounds
  else if !L.color && !L.lmapRegion.inBounds memBytes then some .lmapBounds
  else if !(L.outRegion L.generateSize).inBounds memBytes then some .outBounds
  else if !(L.txtRegion L.generateTextLen).inBounds memBytes then some .txtBounds
  else if anyOverlap (generateRegions L) then some .overlap
  else none

/-- The writes up to the packed bytes: those of PACK_COLOR, or those of BINARIZE and then of PACK reading the map just
written (44_codec_facade.md R139). -/
def generatePackWrites (L : ConfigRegs) (mode : Mode) (m : Memory) : List Host.Cell :=
  if L.color then packColorWrites L m
  else binarizeWrites L m ++ packWrites L mode (memWriteAll m (binarizeWrites L m))

/-- The formatted artifact, from the packed bytes just written (44_codec_facade.md R136, R141). -/
def generateText (L : ConfigRegs) (m : Memory) : List Byte :=
  if L.hexOut then hexTokens (readBytes m L.outBase.toNat L.generateSize)
  else readBytes m L.outBase.toNat L.generateSize

/-- All the MemWrites of GENERATE, in order (44_codec_facade.md R136). -/
def generateWrites (L : ConfigRegs) (mode : Mode) (m : Memory) : List Host.Cell :=
  generatePackWrites L mode m ++
    layOut L.txtBase.toNat (generateText L (memWriteAll m (generatePackWrites L mode m)))

/-- The metadata of GENERATE's packing step (44_codec_facade.md R141). -/
def generateMeta (L : ConfigRegs) (mode : Mode) : PackedMeta :=
  if L.color then colorMeta L else packMeta L mode

/-- GENERATE as a pure function of the latch and BUF; the mode is checked first on both paths
(44_codec_facade.md R136, R137). -/
def generate (memBytes : Nat) (L : ConfigRegs) (m : Memory) : Except CmdError Effect :=
  match L.mode with
  | none => .error .unknownMode
  | some mode =>
    checked (generateError memBytes L) fun _ =>
      { writes := generateWrites L mode m
        packed := some (generateMeta L mode)
        txtLen := some (BitVec.ofNat 32 L.generateTextLen)
        size := some (BitVec.ofNat 32 L.generateSize) }

/-- GENERATE. -/
def execGenerate (s : State) : Host.Outcome State Fault Refusal :=
  completeWith s (generate s.params.memBytes s.latched s.buf)

end Sys2Proof.Machine
end

