-- ==== Sys2Proof/Machine/Dispatch.lean ====
section
/-! DEFINITION. One arm per command: the completion step of that command (10_state.md R44). -/

namespace Sys2Proof.Machine

def exec (i : Instr) (s : State) : Host.Outcome State Fault Refusal :=
  match i with
  | .binarize => Sys2Proof.Machine.execBinarize s
  | .packColor => Sys2Proof.Machine.execPackColor s
  | .pack => Sys2Proof.Machine.execPack s
  | .formatRaw => Sys2Proof.Machine.execFormatRaw s
  | .formatHex => Sys2Proof.Machine.execFormatHex s
  | .formatHexText => Sys2Proof.Machine.execFormatHexText s
  | .size => Sys2Proof.Machine.execSize s
  | .preview => Sys2Proof.Machine.execPreview s
  | .generate => Sys2Proof.Machine.execGenerate s

end Sys2Proof.Machine
end

