-- ==== Sys2Proof/Machine/HostBus.lean ====
section
/-! DEFINITION. The host agent's accesses (20_memory.md R52 to R55, R60, R61), the windows on the bus (R57), the
pseudo-instruction WAIT (30_encoding.md R79), the sticky faults (60_exceptions.md R155), and whose turn it is
(70_reset_and_hazards.md R169). -/

namespace Sys2Proof.Machine

/-- The value a read returns goes to the host; it is no state of the block. -/
def reply (s : State) (v : Word) : State := { s with host := { s.host with replies := v :: s.host.replies } }

/-- BUS_ERROR: recorded, sticky; nothing else changes (20_memory.md R54, 60_exceptions.md R155). -/
def recordBusError (s : State) : State := { s with faults := { s.faults with busError := true } }

/-- HAZARD: recorded, sticky (60_exceptions.md R155). The byte written is unspecified from here on: a free value. Log
entry 7. -/
def recordHazard (s : State) (a : Nat) : State :=
  { s with faults := { s.faults with hazard := true }
           buf := memWrite s.buf a (Config.hazardByte s.draws)
           draws := s.draws + 1 }

/-- A byte of an in-flight command's write regions (20_memory.md R60). -/
def inWriteRegion (s : State) (a : Nat) : Bool :=
  match s.inflight with
  | some c => anyContains (inflightWrites c) a
  | none => false

/-- A byte of an in-flight command's read or write regions (20_memory.md R61). -/
def inAnyRegion (s : State) (a : Nat) : Bool :=
  match s.inflight with
  | some c => anyContains (inflightReads c) a || anyContains (inflightWrites c) a
  | none => false

/-- A host read of REG (20_memory.md R53, R54). -/
def regRead (s : State) (offset : BitVec 8) (width : Nat) : State :=
  if RegAccess.wf offset width then reply s (readOffset s offset) else recordBusError s

/-- A host write of REG (20_memory.md R53, R54). -/
def regWrite (s : State) (offset : BitVec 8) (width : Nat) (v : Word) : State :=
  if RegAccess.wf offset width then writeOffset s offset v else recordBusError s

/-- A host read of BUF (20_memory.md R52, R54); inside a write region in flight the byte is a fresh free value (R60). -/
def bufRead (s : State) (a width : Nat) : State :=
  if BufAccess.wf s.params.memBytes a width then
    if inWriteRegion s a then reply { s with draws := s.draws + 1 } ((Config.busyReadByte s.draws).setWidth 32)
    else reply s ((memRead s.buf a).setWidth 32)
  else recordBusError s

/-- A host write of BUF (20_memory.md R52, R54); inside a region in flight it is a HAZARD (R61). The byte is bits 7:0 of the
value: log entry 18. -/
def bufWrite (s : State) (a width : Nat) (v : Word) : State :=
  if BufAccess.wf s.params.memBytes a width then
    if inAnyRegion s a then recordHazard s a
    else { s with buf := memWrite s.buf a (v.setWidth 8) }
  else recordBusError s

/-- The bus address lies in the REG window: 256 bytes at REG_BASE (20_memory.md R57). -/
def inRegWindow (p : Params) (a : Nat) : Bool := decide (p.regBase ≤ a) && decide (a < p.regBase + 256)

/-- The bus address lies in the BUF window: MEM_BYTES bytes at BUF_BASE (20_memory.md R57). -/
def inBufWindow (p : Params) (a : Nat) : Bool := decide (p.bufBase ≤ a) && decide (a < p.bufBase + p.memBytes)

/-- An access at an offset of REG: a read when there is no data. -/
def regAccess (s : State) (offset : BitVec 8) (width : Nat) (data : Option Word) : State :=
  match data with
  | some v => regWrite s offset width v
  | none => regRead s offset width

/-- An access at an address of BUF: a read when there is no data. -/
def bufAccess (s : State) (a width : Nat) (data : Option Word) : State :=
  match data with
  | some v => bufWrite s a width v
  | none => bufRead s a width

/-- An access by bus address (20_memory.md R57). One in neither window is not addressed to the block and changes nothing of
it. Log entry 12. -/
def busAccess (s : State) (a width : Nat) (data : Option Word) : Host.Outcome State Fault Refusal :=
  if inRegWindow s.params a then
    if inBufWindow s.params a then .refused .ambiguousBusAddress
    else .next (regAccess s (BitVec.ofNat 8 (a - s.params.regBase)) width data)
  else
    if inBufWindow s.params a then .next (bufAccess s (a - s.params.bufBase) width data)
    else .next s

/-- One poll of WAIT: a 32-bit read of STATUS; the WAIT stays the host's next operation until bit 1 (DONE) was 1
(30_encoding.md R79). -/
def waitPoll (s : State) : State :=
  if s.status.done then reply s s.status.toWord
  else reply { s with host := { s.host with todo := .waitDone :: s.host.todo } } s.status.toWord

/-- One operation of the host. -/
def hostPerform (op : HostOp) (s : State) : Host.Outcome State Fault Refusal :=
  match op with
  | .readReg o w => .next (regRead s o w)
  | .writeReg o w v => .next (regWrite s o w v)
  | .readBuf a w => .next (bufRead s a w)
  | .writeBuf a w v => .next (bufWrite s a w v)
  | .bus a w d => busAccess s a w d
  | .waitDone => .next (waitPoll s)
  | .reset => .next (resetBlock s)

/-- A host's turn brings an in-flight command one step nearer its completion (70_reset_and_hazards.md R169; log entry 5). -/
def tick (s : State) : State :=
  { s with inflight := s.inflight.map fun c => { c with delay := c.delay - 1 } }

/-- The host has issued its next operation. -/
def issued (s : State) (rest : List HostOp) : State := { s with host := { s.host with todo := rest } }

/-- The host's turn: its next operation, in program order (20_memory.md R55); with none left nothing happens (the block
"is idle ... and holds all state", 60_exceptions.md R158). -/
def hostTurn (s : State) : Host.Outcome State Fault Refusal :=
  match s.host.todo with
  | [] => .next (tick s)
  | op :: rest => hostPerform op (tick (issued s rest))

/-- The fault that the run has recorded (60_exceptions.md R155). -/
def stickyFault (s : State) : Option Fault :=
  if s.faults.busError then some .busError
  else if s.faults.hazard then some .hazard
  else none

/-- The in-flight command whose completion is due. -/
def dueCommand (s : State) : Option Inflight :=
  match s.inflight with
  | some c => if c.delay = 0 then some c else none
  | none => none

/-- The completion step of an accepted word that is no command (30_encoding.md R72, R73). -/
def completeBadCommand (s : State) (e : DecodeError) : State := raiseError s (badCommand e)

/-- The state just after w was accepted in s with its completion due at the next step: what the host's request for a first
instruction needs. Log entry 9. -/
def placeCommand (s : State) (w : Word) : State :=
  { s with
    cmd := w
    status := Status.accepted
    inflight := some { word := w, latch := s.cfg, delay := 0 }
    faults := { busError := false, hazard := false } }

end Sys2Proof.Machine
end

