-- ==== Sys2Proof/Machine/Step.lean ====
section
/-! DEFINITION. One step: a recorded fault stops the run (60_exceptions.md R155); else a due completion runs the in-flight
command (10_state.md R44); else the host has its turn (20_memory.md R55). -/

namespace Sys2Proof.Machine

/-- The completion step of an in-flight command: its word is decoded, and the command runs or fails with BAD_COMMAND
(60_exceptions.md R148). -/
def complete (c : Inflight) (s : State) : Host.Outcome State Fault Refusal :=
  match decodeWord c.word with
  | .ok i => exec i s
  | .error e => .next (completeBadCommand s e)

/-- One step of the machine. -/
def step (s : State) : Host.Outcome State Fault Refusal :=
  match stickyFault s with
  | some f => .fault f
  | none =>
    match dueCommand s with
    | some c => complete c s
    | none => hostTurn s

/-- The state whose very next step runs the command word w, for the host's questions about the opcode table. A command is
not fetched: it is accepted from the host (10_state.md R21, R41), so this is the state after that acceptance, its completion
due. Log entry 9. -/
def State.withFetchWord (s : State) (nbits w : Nat) : State := placeCommand s (BitVec.ofNat 32 (w % 2 ^ nbits))

end Sys2Proof.Machine
end

