-- ==== Sys2Proof/Machine/HostScript.lean ====
section
/-! DEFINITION. The host script (30_encoding.md R78 to R80): its lines, the pseudo-instructions, and their expansion to the
host's operations. -/

namespace Sys2Proof.Machine

/-- One line of a host script (30_encoding.md R78, R79). -/
inductive ScriptLine where
  /-- WR <REG>, <value> -/
  | wr (r : Reg) (value : Word)
  /-- RD <REG> -/
  | rd (r : Reg)
  /-- WB <addr>, <b0>, <b1>, ... -/
  | wb (addr : Nat) (bytes : List Byte)
  /-- RB <addr>, <n> -/
  | rb (addr : Nat) (n : Nat)
  /-- CMD <MNEMONIC> -/
  | cmd (i : Instr)
  /-- WAIT -/
  | wait
  /-- RUN <MNEMONIC> -/
  | run (i : Instr)
  /-- CFG INVERT=i REVERSE=r OUTMODE=o COLOR=c MODE=m -/
  | cfg (invert reverse outmode color : Bool) (mode : BitVec 3)
  deriving DecidableEq, Repr

/-- The CONFIG word of CFG: (m << 4) | (c << 3) | (o << 2) | (r << 1) | i (30_encoding.md R79). -/
def cfgWord (invert reverse outmode color : Bool) (mode : BitVec 3) : Word :=
  (mode.setWidth 32 <<< 4) ||| ((flagBit color).setWidth 32 <<< 3) ||| ((flagBit outmode).setWidth 32 <<< 2) |||
    ((flagBit reverse).setWidth 32 <<< 1) ||| (flagBit invert).setWidth 32

/-- W8 [<addr+i>] <bi>, one per byte (30_encoding.md R78). -/
def writeByteOps : Nat → List Byte → List HostOp
  | _, [] => []
  | a, b :: bs => .writeBuf a 8 (b.setWidth 32) :: writeByteOps (a + 1) bs

/-- R8 [<addr+i>], one per byte (30_encoding.md R78). -/
def readByteOps : Nat → Nat → List HostOp
  | _, 0 => []
  | a, n + 1 => .readBuf a 8 :: readByteOps (a + 1) n

/-- The transactions of a line (30_encoding.md R78, R79). -/
def expandLine : ScriptLine → List HostOp
  | .wr r v => [.writeReg r.offset 32 v]
  | .rd r => [.readReg r.offset 32]
  | .wb a bs => writeByteOps a bs
  | .rb a n => readByteOps a n
  | .cmd i => [.writeReg Reg.cmd.offset 32 (encode i)]
  | .wait => [.waitDone]
  | .run i => [.writeReg Reg.cmd.offset 32 (encode i), .waitDone]
  | .cfg i r o c m => [.writeReg Reg.config.offset 32 (cfgWord i r o c m)]

/-- "A host program's encoding is its sequence of transactions" (30_encoding.md R80). -/
def expandScript (lines : List ScriptLine) : List HostOp := lines.flatMap expandLine

end Sys2Proof.Machine
end

