-- ==== Sys2Proof/Safety.lean ====
section
/-! DEFINITION. What claims are stated in: the outcome of a command as a pure function, an error completion, and the
invariants of the machine. -/

namespace Sys2Proof.Machine

/-- "the command's rule is evaluated as a pure function of (w, L, BUF)" (10_state.md R44). -/
def commandResult (i : Instr) (memBytes : Nat) (L : ConfigRegs) (m : Memory) : Except CmdError Effect :=
  match i with
  | .binarize => binarize memBytes L m
  | .packColor => packColor memBytes L m
  | .pack => pack memBytes L m
  | .formatRaw => formatRaw memBytes L m
  | .formatHex => formatHex memBytes L m
  | .formatHexText => formatHexText memBytes L m
  | .size => sizeCommand L
  | .preview => preview memBytes L m
  | .generate => generate memBytes L m

/-- A run that has recorded no fault (60_exceptions.md R155): claims assume it. -/
def FaultFree (s : State) : Prop := s.faults.busError = false ∧ s.faults.hazard = false

/-- The command completes with an error: STATUS as 60_exceptions.md R150 says, the in-flight command cleared, nothing else
changed. -/
def FailsWith (i : Instr) (s : State) (code : BitVec 4) (detail : BitVec 8) : Prop :=
  exec i s = .next { s with
    status := { busy := false, done := true, err := true, overrun := s.status.overrun, errCode := code,
                errDetail := detail }
    inflight := none }

/-- STATUS after a successful completion (10_state.md R27, R28, R44). -/
def SucceededStatus (s t : State) : Prop :=
  t.status = { busy := false, done := true, err := false, overrun := s.status.overrun, errCode := 0, errDetail := 0 } ∧
    t.inflight = none

/-- The address is in none of the regions. -/
def OutsideAll (rs : List Region) (a : Nat) : Prop := ∀ r ∈ rs, ¬(r.base ≤ a ∧ a < r.base + r.len)

/-- BUF is in canonical form and lists only addresses that exist (20_memory.md R50). -/
def MemoryLegal (s : State) : Prop := Memory.wf s.buf = true ∧ Memory.within s.params.memBytes s.buf = true

/-- BUSY is 1 exactly while a command is in flight, and CMD holds its word (10_state.md R24, R41, R44). -/
def BusyMatches (s : State) : Prop :=
  s.status.busy = s.inflight.isSome ∧ ∀ c, s.inflight = some c → c.word = s.cmd

/-- The reserved bits of CONFIG and THRESHOLD are 0 (10_state.md R29, R32). -/
def ReservedClear (L : ConfigRegs) : Prop := L.config.toNat < 2 ^ 7 ∧ L.threshold.toNat < 2 ^ 8

/-- The reserved bits are 0 in the live registers and in the latch. -/
def ReservedLegal (s : State) : Prop :=
  ReservedClear s.cfg ∧ ∀ c, s.inflight = some c → ReservedClear c.latch

/-- STATUS holds a combination the rules allow: never busy and done together, an error only with DONE and one of the
thirteen pairs, no code or detail without an error (10_state.md R26, R27, 60_exceptions.md R147). -/
def StatusLegal (st : Status) : Prop :=
  (st.busy = true → st.done = false) ∧
  (st.err = false → st.errCode = 0 ∧ st.errDetail = 0) ∧
  (st.err = true → st.done = true ∧
    ∃ e : CmdError, st.errCode = e.code ∧ st.errDetail = e.detail)

/-- RES_INFO holds 8 after a colour packing, else a mode number (10_state.md R40). -/
def InfoLegal (s : State) : Prop := s.res.info = 8 ∨ s.res.info.toNat < 4

end Sys2Proof.Machine
end

