-- ==== Sys2Proof/Certificates/Slice0/Obligations.lean ====
section
/-! DEFINITION. The statements for the provers. Every one holds for every value of every free value and of every parameter:
none names a value of an opaque constant of Config but as an unknown. -/

open Sys2Proof Sys2Proof.Machine

/-! ## Encoding -/

/-- 30_encoding.md R71: the nine words, written out from the opcode map, decode to the nine commands. -/
def Obligations.NineWordsDecode : Prop :=
  decodeWord 0x00000001 = .ok .binarize ∧ decodeWord 0x00000002 = .ok .packColor ∧
  decodeWord 0x00000003 = .ok .pack ∧ decodeWord 0x00000004 = .ok .formatRaw ∧
  decodeWord 0x00000005 = .ok .formatHex ∧ decodeWord 0x00000006 = .ok .formatHexText ∧
  decodeWord 0x00000007 = .ok .size ∧ decodeWord 0x00000008 = .ok .preview ∧
  decodeWord 0x00000009 = .ok .generate

/-- 30_encoding.md R71, the opcode map whole: the word of each command; decode and encode agree on all 2^32 words, so a word
is a command's exactly when it is that command's encoding; and "A command word selects a command exactly when w[31:4] = 0 and
w[3:0] is 0x1 to 0x9". -/
def Obligations.DecodeAndEncodeAgree : Prop :=
  (∀ i : Instr, encode i = match i with
    | .binarize => 0x1
    | .packColor => 0x2
    | .pack => 0x3
    | .formatRaw => 0x4
    | .formatHex => 0x5
    | .formatHexText => 0x6
    | .size => 0x7
    | .preview => 0x8
    | .generate => 0x9) ∧
  (∀ (w : Word) (i : Instr), decodeWord w = .ok i ↔ w = encode i) ∧
  (∀ w : Word, (∃ i, decodeWord w = .ok i) ↔
    w.extractLsb' 4 28 = 0 ∧ 1 ≤ (w.extractLsb' 0 4).toNat ∧ (w.extractLsb' 0 4).toNat ≤ 9)

/-- 60_exceptions.md R148: the completion of a command word: nonzero reserved bits give BAD_COMMAND 0x02 whatever the opcode;
else a reserved opcode gives BAD_COMMAND 0x01; else the command runs. The two errors change nothing but STATUS and the
in-flight command. -/
def Obligations.CommandWordsAreCheckedFirst : Prop :=
  ∀ (s : State) (c : Inflight), s.inflight = some c →
    (c.word.extractLsb' 4 28 ≠ 0 →
      complete c s = .next { s with
        status := { busy := false, done := true, err := true, overrun := s.status.overrun, errCode := 4, errDetail := 2 }
        inflight := none }) ∧
    (c.word.extractLsb' 4 28 = 0 → (c.word.extractLsb' 0 4).toNat = 0 ∨ 10 ≤ (c.word.extractLsb' 0 4).toNat →
      complete c s = .next { s with
        status := { busy := false, done := true, err := true, overrun := s.status.overrun, errCode := 4, errDetail := 1 }
        inflight := none }) ∧
    (c.word.extractLsb' 4 28 = 0 → 1 ≤ (c.word.extractLsb' 0 4).toNat → (c.word.extractLsb' 0 4).toNat ≤ 9 →
      ∃ i, c.word = encode i ∧ complete c s = exec i s)

/-! ## The step -/

/-- 10_state.md R44, 60_exceptions.md R148: when the in-flight command's completion is due, the step is that completion, and
nothing is added around it; when its word decodes, that is the command. That the completion comes when the delay is used up is
the model's (log entry 5). -/
def Obligations.StepRunsTheDecodedCommand : Prop :=
  ∀ (s : State) (c : Inflight), FaultFree s → s.inflight = some c → c.delay = 0 →
    step s = complete c s ∧ ∀ i, decodeWord c.word = .ok i → step s = exec i s

/-- Log entries 5 and 10: while no completion is due, a step is the host's next operation, and it brings the completion one
step nearer. -/
def Obligations.StepElseRunsTheHost : Prop :=
  ∀ (s : State) (op : HostOp) (rest : List HostOp), FaultFree s → (∀ c, s.inflight = some c → c.delay ≠ 0) →
    s.host.todo = op :: rest →
    step s = hostPerform op { s with
      host := { s.host with todo := rest }
      inflight := s.inflight.map fun c => { c with delay := c.delay - 1 } }

/-- 60_exceptions.md R158: between commands, with nothing asked, the block is idle and holds all state. -/
def Obligations.IdleHoldsAllState : Prop :=
  ∀ s : State, FaultFree s → s.inflight = none → s.host.todo = [] → step s = .next s

/-- 70_reset_and_hazards.md R169 as the model has it (log entry 5): an accepted command completes after its delay, with its
own latch, when the host does nothing meanwhile. -/
def Obligations.AcceptedCommandCompletes : Prop :=
  ∀ (s : State) (c : Inflight) (i : Instr), FaultFree s → s.inflight = some c → s.host.todo = [] →
    decodeWord c.word = .ok i →
    core.run (c.delay + 1) s = exec i { s with inflight := some { c with delay := 0 } }

/-! ## Acceptance, dropping, latching -/

/-- 10_state.md R41: a CMD write while BUSY = 0 accepts any word: CMD, STATUS and the in-flight command as the rule says, for
some delay of the completion; nothing else changes but the model's count of free values. A word that is no command fails at
completion with BAD_COMMAND. -/
def Obligations.IdleCmdWriteAccepts : Prop :=
  ∀ (s : State) (w : Word), s.status.busy = false →
    ∃ (d : Nat) (t : State), hostPerform (.writeReg 0x00 32 w) s = .next t ∧
      t = { s with
        cmd := w
        status := { busy := true, done := false, err := false, overrun := false, errCode := 0, errDetail := 0 }
        inflight := some { word := w, latch := s.cfg, delay := d }
        draws := s.draws + 1 } ∧
      ((∀ i, w ≠ encode i) → ∃ u, complete { word := w, latch := s.cfg, delay := d } t = .next u ∧
        u.status.err = true ∧ u.status.errCode = 4)

/-- 10_state.md R43: a CMD write while BUSY = 1 has no effect other than OVERRUN <- 1. -/
def Obligations.BusyCmdWriteIsDropped : Prop :=
  ∀ (s : State) (w : Word), s.status.busy = true →
    hostPerform (.writeReg 0x00 32 w) s = .next { s with status := { s.status with overrun := true } }

/-- 10_state.md R42: "The in-flight command reads only L, never the live registers": whatever the configuration registers
hold, its completion is the same but for those registers themselves. -/
def Obligations.InflightCommandReadsOnlyTheLatch : Prop :=
  ∀ (i : Instr) (s : State) (c : Inflight) (live : ConfigRegs), s.inflight = some c →
    ∃ t, exec i s = .next t ∧ exec i { s with cfg := live } = .next { t with cfg := live }

/-! ## Registers -/

/-- 10_state.md R48: after reset every register reads zero except LINE_BREAK, which reads 16; the flags are off and the mode
is ROW; STATUS is clear; no command is in flight; each byte of BUF is a free value of its own. -/
def Obligations.ResetRegisterValues : Prop :=
  (∀ r : Reg, readReg State.reset r = if r = .lineBreak then 0x10 else 0) ∧
  State.reset.cfg.invert = false ∧ State.reset.cfg.reverse = false ∧ State.reset.cfg.hexOut = false ∧
  State.reset.cfg.color = false ∧ State.reset.cfg.mode = some .row ∧ State.reset.cfg.thresholdValue = 0 ∧
  State.reset.status = { busy := false, done := false, err := false, overrun := false, errCode := 0, errDetail := 0 } ∧
  State.reset.inflight = none ∧ ∀ a, memRead State.reset.buf a = Config.powerOnByte a

/-- 10_state.md R24: where the fields of STATUS stand in the word the host reads; bits 31:16 are 0. -/
def Obligations.StatusWordLayout : Prop :=
  ∀ st : Status,
    st.toWord.getLsbD 0 = st.busy ∧ st.toWord.getLsbD 1 = st.done ∧ st.toWord.getLsbD 2 = st.err ∧
    st.toWord.getLsbD 3 = st.overrun ∧ st.toWord.extractLsb' 4 4 = st.errCode ∧
    st.toWord.extractLsb' 8 8 = st.errDetail ∧ st.toWord.extractLsb' 16 16 = 0

/-- 10_state.md R49: a host write to a configuration register stores every bit but the reserved ones of CONFIG (31:7) and
THRESHOLD (31:8), which read 0, CONFIG.MODE included; every other register reads as before, and nothing but the configuration
registers changes. A write to STATUS or a result register changes nothing. A read of any register has no side effect. -/
def Obligations.RegisterAccessRules : Prop :=
  ∀ (s : State) (r : Reg) (v : Word),
    (r ∈ [Reg.config, .width, .height, .threshold, .lineBreak, .pixBase, .pixLen, .lmapBase, .outBase, .srcBase, .srcLen,
        .txtBase] →
      ∃ t, hostPerform (.writeReg r.offset 32 v) s = .next t ∧
        readReg t r = (if r = .config then v % 128 else if r = .threshold then v % 256 else v) ∧
        (∀ r', r' ≠ r → readReg t r' = readReg s r') ∧ t = { s with cfg := t.cfg }) ∧
    (r ∈ [Reg.status, .resBytes, .resBytesPerPage, .resPageCount, .resWidth, .resHeight, .resInfo, .resTxtLen, .resSize] →
      hostPerform (.writeReg r.offset 32 v) s = .next s) ∧
    ∃ w, hostPerform (.readReg r.offset 32) s =
      .next { s with host := { s.host with replies := w :: s.host.replies } }

/-- 10_state.md R22: STATUS and the result registers ignore writes; the offsets 0x58 to 0xFC read as zero and ignore
writes. -/
def Obligations.ReadOnlyAndUnlistedOffsets : Prop :=
  ∀ (s : State) (o : BitVec 8) (v : Word), o.toNat % 4 = 0 →
    (o.toNat = 0x04 ∨ (0x38 ≤ o.toNat ∧ o.toNat ≤ 0x54) → hostPerform (.writeReg o 32 v) s = .next s) ∧
    (0x58 ≤ o.toNat →
      hostPerform (.writeReg o 32 v) s = .next s ∧
      hostPerform (.readReg o 32) s = .next { s with host := { s.host with replies := 0 :: s.host.replies } })

/-- 20_memory.md R53, R60, R67: a host read of a listed register returns its current value, at any time, and has no side
effect. -/
def Obligations.RegisterReadsReturnCurrentValues : Prop :=
  ∀ (s : State) (r : Reg),
    hostPerform (.readReg r.offset 32) s =
      .next { s with host := { s.host with replies := readReg s r :: s.host.replies } }

/-- 10_state.md R29, R30, 30_encoding.md R79: the word of CFG, written to CONFIG, gives every flag and MODE the value the
line names; MODE 0 to 3 are the four modes in order, 4 to 7 are none. -/
def Obligations.CfgLineSetsEveryField : Prop :=
  ∀ (s : State) (i r o c : Bool) (m : BitVec 3),
    ∃ t, hostPerform (.writeReg 0x08 32 (cfgWord i r o c m)) s = .next t ∧
      t.cfg.invert = i ∧ t.cfg.reverse = r ∧ t.cfg.hexOut = o ∧ t.cfg.color = c ∧ t.cfg.modeField = m ∧
      t.cfg.mode = (if m = 0 then some .row else if m = 1 then some .col else if m = 2 then some .colRow
        else if m = 3 then some .rowCol else none)

/-- 30_encoding.md R79: WAIT reads STATUS once a turn, and ends when bit 1 (DONE) of the value read is 1. -/
def Obligations.WaitPollsUntilDone : Prop :=
  ∀ s : State,
    (s.status.done = true → hostPerform .waitDone s = .next { s with
      host := { s.host with replies := s.status.toWord :: s.host.replies } }) ∧
    (s.status.done = false → hostPerform .waitDone s = .next { s with
      host := { todo := .waitDone :: s.host.todo, replies := s.status.toWord :: s.host.replies } })

/-! ## BUF and the host -/

/-- 20_memory.md R52: a host byte write sets that byte and nothing else of BUF, "subject to rule R61": outside the regions of
a command in flight; a host byte read returns the byte, "subject to rule R60": outside the write regions of a command in
flight. -/
def Obligations.HostByteAccess : Prop :=
  ∀ (s : State) (a : Nat) (v : Word), a < s.params.memBytes →
    (inAnyRegion s a = false →
      ∃ t, hostPerform (.writeBuf a 8 v) s = .next t ∧ t = { s with buf := t.buf } ∧
        memRead t.buf a = v.setWidth 8 ∧ ∀ b, b ≠ a → memRead t.buf b = memRead s.buf b) ∧
    (inWriteRegion s a = false →
      hostPerform (.readBuf a 8) s = .next { s with
        host := { s.host with replies := (memRead s.buf a).setWidth 32 :: s.host.replies } })

/-- 20_memory.md R60 as the model has it (log entry 3): a host byte read inside the write regions of a command in flight
returns a free value, numbered by the model's count of free values. -/
def Obligations.BusyReadsAreFreeValues : Prop :=
  ∀ (s : State) (a : Nat), a < s.params.memBytes → inWriteRegion s a = true →
    hostPerform (.readBuf a 8) s = .next { s with
      host := { s.host with replies := (Config.busyReadByte s.draws).setWidth 32 :: s.host.replies }
      draws := s.draws + 1 }

/-- 20_memory.md R61, 60_exceptions.md R155: a host byte write inside the regions of a command in flight records HAZARD. That
the next step then answers that fault (or BUS_ERROR, if one was recorded before) is the model's (log entry 6). -/
def Obligations.HazardWriteStopsTheRun : Prop :=
  ∀ (s : State) (a : Nat) (v : Word), a < s.params.memBytes → inAnyRegion s a = true →
    ∃ t, hostPerform (.writeBuf a 8 v) s = .next t ∧ t.faults.hazard = true ∧
      step t = .fault (if s.faults.busError then .busError else .hazard)

/-- 20_memory.md R54: the four bus errors change no state of the block; the fault of the host agent is recorded. -/
def Obligations.BusErrorsChangeNothing : Prop :=
  ∀ (s : State) (o : BitVec 8) (a : Nat) (width : Nat) (v : Word) (op : HostOp),
    ((width ≠ 32 ∨ o.toNat % 4 ≠ 0) ∧ (op = .readReg o width ∨ op = .writeReg o width v)) ∨
    ((width ≠ 8 ∨ s.params.memBytes ≤ a) ∧ (op = .readBuf a width ∨ op = .writeBuf a width v)) →
    hostPerform op s = .next { s with faults := { s.faults with busError := true } }

/-- 60_exceptions.md R155: a recorded fault is never cleared: no command and no host operation, the reset among them, clears
it. That no step goes on once one is recorded is the model's (log entry 6). -/
def Obligations.RecordedFaultsAreSticky : Prop :=
  (∀ (op : HostOp) (s t : State), hostPerform op s = .next t →
    (s.faults.busError = true → t.faults.busError = true) ∧ (s.faults.hazard = true → t.faults.hazard = true)) ∧
  (∀ (i : Instr) (s t : State), exec i s = .next t → t.faults = s.faults) ∧
  (∀ s t : State, step s = .next t → FaultFree s) ∧
  (∀ s : State, ¬FaultFree s → step s = .fault (if s.faults.busError then .busError else .hazard))

/-- 20_memory.md R57 as the model has it (log entry 12): an access by bus address is the access at the offset from the base of
the one window it lies in. -/
def Obligations.BusAddressesReachTheWindows : Prop :=
  ∀ (s : State) (x width : Nat) (v : Word),
    (x < 256 → ¬(s.params.bufBase ≤ s.params.regBase + x ∧ s.params.regBase + x < s.params.bufBase + s.params.memBytes) →
      hostPerform (.bus (s.params.regBase + x) width none) s = hostPerform (.readReg (BitVec.ofNat 8 x) width) s ∧
      hostPerform (.bus (s.params.regBase + x) width (some v)) s =
        hostPerform (.writeReg (BitVec.ofNat 8 x) width v) s) ∧
    (x < s.params.memBytes →
      ¬(s.params.regBase ≤ s.params.bufBase + x ∧ s.params.bufBase + x < s.params.regBase + 256) →
      hostPerform (.bus (s.params.bufBase + x) width none) s = hostPerform (.readBuf x width) s ∧
      hostPerform (.bus (s.params.bufBase + x) width (some v)) s =
        hostPerform (.writeBuf x width v) s)

/-- 70_reset_and_hazards.md R161: a reset sets every register to its reset value, clears the in-flight command, makes the
bytes of its write regions that exist in BUF free values (log entry 4), and leaves every other byte. -/
def Obligations.ResetInput : Prop :=
  ∀ s : State, ∃ t, hostPerform .reset s = .next t ∧
    (∀ r : Reg, readReg t r = if r = .lineBreak then 0x10 else 0) ∧ t.inflight = none ∧ t.params = s.params ∧
    (∀ a, inWriteRegion s a = false → memRead t.buf a = memRead s.buf a) ∧
    (∀ a, inWriteRegion s a = true → a < s.params.memBytes → memRead t.buf a = Config.resetByte s.draws a)

/-! ## Every command -/

/-- 10_state.md R44: the completion step of every command ends it: BUSY <- 0, DONE <- 1, the in-flight command cleared;
OVERRUN as before (R28). -/
def Obligations.EveryCompletionEndsTheCommand : Prop :=
  ∀ (i : Instr) (s : State), ∃ t, exec i s = .next t ∧ t.status.busy = false ∧ t.status.done = true ∧
    t.status.overrun = s.status.overrun ∧ t.inflight = none

/-- 60_exceptions.md R150: a command that ends with an error sets BUSY 0, DONE 1, ERR 1 and one of the thirteen pairs of code
and detail, leaves OVERRUN, and changes nothing else: no register and no BUF byte. -/
def Obligations.ErrorCompletionChangesNothing : Prop :=
  ∀ (i : Instr) (s t : State), exec i s = .next t → t.status.err = true →
    ∃ e : CmdError, t = { s with
      status := { busy := false, done := true, err := true, overrun := s.status.overrun, errCode := e.code,
                  errDetail := e.detail }
      inflight := none }

/-- The frame of all nine commands: CMD, the configuration registers, the parameters, the host, the recorded faults and the
count of free values are unchanged (10_state.md R44). -/
def Obligations.CommandsLeaveOtherRegisters : Prop :=
  ∀ (i : Instr) (s t : State), exec i s = .next t →
    t.cmd = s.cmd ∧ t.cfg = s.cfg ∧ t.params = s.params ∧ t.host = s.host ∧ t.faults = s.faults ∧ t.draws = s.draws

/-- The frame of the result registers (10_state.md R39): BINARIZE writes none; the formatter commands and PREVIEW only
RES_TXT_LEN; SIZE only RES_SIZE; PACK and PACK_COLOR neither of those two. -/
def Obligations.CommandsLeaveOtherResults : Prop :=
  ∀ (i : Instr) (s t : State), exec i s = .next t →
    (i = .binarize → t.res = s.res) ∧
    (i ∈ [Instr.formatRaw, .formatHex, .formatHexText, .preview] → t.res = { s.res with txtLen := t.res.txtLen }) ∧
    (i = .size → t.res = { s.res with size := t.res.size }) ∧
    (i ∈ [Instr.pack, .packColor] → t.res.txtLen = s.res.txtLen ∧ t.res.size = s.res.size)

/-- The frame of BUF for all nine commands: every byte outside the command's write regions (30_encoding.md R75), as the
latch gives them, reads as before; SIZE has none, so it changes no byte. -/
def Obligations.CommandsLeaveOtherBytes : Prop :=
  ∀ (i : Instr) (s t : State) (a : Nat), exec i s = .next t → OutsideAll (writeRegions i s.latched) a →
    memRead t.buf a = memRead s.buf a

/-- 20_memory.md R67, 10_state.md R44: the result depends only on the latch and on the bytes of the read regions: two states
that agree on these (and on MEM_BYTES) get the same STATUS kind, the same result-register writes and the same bytes in the
write regions. -/
def Obligations.ResultDependsOnlyOnLatchAndReadRegions : Prop :=
  ∀ (i : Instr) (s s' t t' : State), s'.latched = s.latched → s'.params = s.params → s'.res = s.res →
    (∀ a, anyContains (readRegions i s.latched) a = true → memRead s'.buf a = memRead s.buf a) →
    exec i s = .next t → exec i s' = .next t' →
    t'.status.err = t.status.err ∧ t'.status.errCode = t.status.errCode ∧ t'.status.errDetail = t.status.errDetail ∧
    t'.res = t.res ∧
    (t.status.err = false → ∀ a, anyContains (writeRegions i s.latched) a = true → memRead t'.buf a = memRead t.buf a)

/-! ## BINARIZE -/

/-- 40_binarizer.md R85, R86: on in-bounds, disjoint PIX and LMAP regions of the right length BINARIZE succeeds, writes no
result register, and gives every pixel its exact luminance comparison. -/
def Obligations.BinarizeComputesTheMap : Prop :=
  ∀ s : State,
    s.latched.w ≠ 0 → s.latched.h ≠ 0 → s.latched.pixLen.toNat = 4 * s.latched.w * s.latched.h →
    s.latched.pixRegion.inBounds s.params.memBytes = true → s.latched.lmapRegion.inBounds s.params.memBytes = true →
    s.latched.pixRegion.overlaps s.latched.lmapRegion = false →
    ∃ t, exec .binarize s = .next t ∧ SucceededStatus s t ∧ t.res = s.res ∧
      ∀ x y, x < s.latched.w → y < s.latched.h →
        memRead t.buf (s.latched.lmapBase.toNat + (y * s.latched.w + x)) =
          if 299 * (memRead s.buf (s.latched.pixBase.toNat + 4 * (y * s.latched.w + x))).toNat
              + 587 * (memRead s.buf (s.latched.pixBase.toNat + 4 * (y * s.latched.w + x) + 1)).toNat
              + 114 * (memRead s.buf (s.latched.pixBase.toNat + 4 * (y * s.latched.w + x) + 2)).toNat
              > 1000 * (s.latched.threshold.toNat % 256)
          then 1 else 0

/-- 40_binarizer.md R87 for BINARIZE: two images that differ only in alpha bytes give the same map. -/
def Obligations.BinarizeIgnoresAlpha : Prop :=
  ∀ (L : ConfigRegs) (m m' : Memory),
    (∀ i k, i < L.w * L.h → k < 3 →
      memRead m' (L.pixBase.toNat + 4 * i + k) = memRead m (L.pixBase.toNat + 4 * i + k)) →
    luminanceMap L m' = luminanceMap L m

/-- 40_binarizer.md R88, R89 (the spec's derived rules): a gray pixel has luminance its value and the comparison is strict;
T = 255 gives no pixel 1, T = 0 gives every pixel but black 1. -/
def Obligations.ThresholdEnds : Prop :=
  (∀ (v : Byte) (T : Nat), lumBit v v v T = if v.toNat > T then 1 else 0) ∧
  (∀ r g b : Byte, lumBit r g b 255 = 0) ∧
  (∀ r g b : Byte, lumBit r g b 0 = if r = 0 ∧ g = 0 ∧ b = 0 then 0 else 1)

/-! ## PACK_COLOR -/

/-- 41_rgb565_packer.md R93 to R97: on in-bounds, disjoint PIX and OUT regions of the right length PACK_COLOR succeeds
whatever MODE holds, writes each pixel's RGB565 high byte and low byte, complemented when INVERT is set, and reports one page
per row. -/
def Obligations.PackColorWritesRgb565 : Prop :=
  ∀ s : State,
    s.latched.w ≠ 0 → s.latched.h ≠ 0 → s.latched.pixLen.toNat = 4 * s.latched.w * s.latched.h →
    s.latched.pixRegion.inBounds s.params.memBytes = true →
    (s.latched.outRegion (2 * s.latched.w * s.latched.h)).inBounds s.params.memBytes = true →
    s.latched.pixRegion.overlaps (s.latched.outRegion (2 * s.latched.w * s.latched.h)) = false →
    ∃ t, exec .packColor s = .next t ∧ SucceededStatus s t ∧
      t.res = { s.res with
        bytes := BitVec.ofNat 32 (2 * s.latched.w * s.latched.h), bytesPerPage := BitVec.ofNat 32 (2 * s.latched.w),
        pageCount := s.latched.height, width := s.latched.width, height := s.latched.height, info := 8 } ∧
      ∀ x y r g b : Nat, x < s.latched.w → y < s.latched.h →
        r = (memRead s.buf (s.latched.pixBase.toNat + 4 * (y * s.latched.w + x))).toNat →
        g = (memRead s.buf (s.latched.pixBase.toNat + 4 * (y * s.latched.w + x) + 1)).toNat →
        b = (memRead s.buf (s.latched.pixBase.toNat + 4 * (y * s.latched.w + x) + 2)).toNat →
        (memRead t.buf (s.latched.outBase.toNat + 2 * (y * s.latched.w + x))).toNat =
          (if s.latched.config.getLsbD 0 then 255 - (2048 * (r / 8) + 32 * (g / 4) + b / 8) / 256
           else (2048 * (r / 8) + 32 * (g / 4) + b / 8) / 256) ∧
        (memRead t.buf (s.latched.outBase.toNat + 2 * (y * s.latched.w + x) + 1)).toNat =
          (if s.latched.config.getLsbD 0 then 255 - (2048 * (r / 8) + 32 * (g / 4) + b / 8) % 256
           else (2048 * (r / 8) + 32 * (g / 4) + b / 8) % 256)

/-! ## PACK -/

/-- 42_bitmap_sampler.md R100, R101, R103 to R106: with a recognized mode, in-bounds disjoint regions and map bytes 0 or 1,
PACK succeeds; a bit of the output is 1 exactly when a pixel owns it by the mode's formulas and the REVERSE placement and has
value 0 after the inversion (so padding bits are 0); the metadata are those of the mode. -/
def Obligations.PackPlacesEveryPixel : Prop :=
  ∀ (s : State) (mode : Mode),
    s.latched.mode = some mode → s.latched.w ≠ 0 → s.latched.h ≠ 0 →
    s.latched.lmapRegion.inBounds s.params.memBytes = true →
    (s.latched.outRegion (mode.packedSize s.latched.w s.latched.h)).inBounds s.params.memBytes = true →
    s.latched.lmapRegion.overlaps (s.latched.outRegion (mode.packedSize s.latched.w s.latched.h)) = false →
    (∀ x y, x < s.latched.w → y < s.latched.h → (mapByte s.latched s.buf x y).toNat ≤ 1) →
    ∃ t, exec .pack s = .next t ∧ SucceededStatus s t ∧
      t.res = { s.res with
        bytes := BitVec.ofNat 32 (match mode with
          | .row | .rowCol => (s.latched.w + 7) / 8 * s.latched.h
          | .col | .colRow => (s.latched.h + 7) / 8 * s.latched.w)
        bytesPerPage := BitVec.ofNat 32 (match mode with
          | .row | .rowCol => (s.latched.w + 7) / 8
          | .col | .colRow => (s.latched.h + 7) / 8)
        pageCount := (match mode with
          | .row | .rowCol => s.latched.height
          | .col | .colRow => s.latched.width)
        width := s.latched.width
        height := s.latched.height
        info := BitVec.ofNat 32 (match mode with
          | .row => 0
          | .col => 1
          | .colRow => 2
          | .rowCol => 3) } ∧
      ∀ j bit, j < mode.packedSize s.latched.w s.latched.h → bit < 8 →
        ((memRead t.buf (s.latched.outBase.toNat + j)).getLsbD bit = true ↔
          ∃ x y, x < s.latched.w ∧ y < s.latched.h ∧
            j = (match mode with
              | .row => y * ((s.latched.w + 7) / 8) + x / 8
              | .col => x * ((s.latched.h + 7) / 8) + y / 8
              | .colRow => x + y / 8 * s.latched.w
              | .rowCol => x / 8 * s.latched.h + y) ∧
            bit = (match mode with
              | .row | .rowCol => if s.latched.config.getLsbD 1 then x % 8 else 7 - x % 8
              | .col | .colRow => if s.latched.config.getLsbD 1 then y % 8 else 7 - y % 8) ∧
            memRead s.buf (s.latched.lmapBase.toNat + y * s.latched.w + x) =
              if s.latched.config.getLsbD 0 then 1 else 0)

/-- 42_bitmap_sampler.md R107 (the spec's derived rule): in every mode distinct pixels own distinct bits, and every byte
index is in the output. -/
def Obligations.PixelsOwnDistinctBits : Prop :=
  ∀ (mode : Mode) (W H x y x' y' : Nat), x < W → y < H → x' < W → y' < H →
    (place mode x y W H).1 < mode.packedSize W H ∧ (place mode x y W H).2 < 8 ∧
    (place mode x y W H = place mode x' y' W H → x = x' ∧ y = y')

/-- 42_bitmap_sampler.md R110 (the spec's derived rule), bit-order symmetry: with the other REVERSE each byte is the
bit-reversal. -/
def Obligations.BitOrderSymmetry : Prop :=
  ∀ (L L' : ConfigRegs) (mode : Mode) (m : Memory) (j bit : Nat),
    L' = { L with config := L.config ^^^ 2 } → j < mode.packedSize L.w L.h → bit < 8 →
    ((packBytes L' mode m).getD j 0).getLsbD bit = ((packBytes L mode m).getD j 0).getLsbD (7 - bit)

/-- 42_bitmap_sampler.md R110 (the spec's derived rule), polarity: packing the complemented map with INVERT set gives what
packing the map with INVERT clear gives. -/
def Obligations.PolarityIsInvolutive : Prop :=
  ∀ (L L' : ConfigRegs) (mode : Mode) (m m' : Memory),
    L.invert = false → L' = { L with config := L.config ||| 1 } →
    (∀ x y, x < L.w → y < L.h → (mapByte L m x y).toNat ≤ 1 ∧ mapByte L' m' x y = 1 - mapByte L m x y) →
    packBytes L' mode m' = packBytes L mode m

/-- 42_bitmap_sampler.md R111 (the spec's derived rule): ROW and ROWCOL coincide when W ≤ 8, COL and COLROW when H ≤ 8. -/
def Obligations.CoincidingModes : Prop :=
  ∀ (L : ConfigRegs) (m : Memory), L.w ≠ 0 → L.h ≠ 0 →
    (L.w ≤ 8 → packBytes L .row m = packBytes L .rowCol m) ∧
    (L.h ≤ 8 → packBytes L .col m = packBytes L .colRow m)

/-! ## The formatter -/

/-- 43_output_formatter.md R116: with SRC_LEN = 0 the three formatter commands succeed without any check, write nothing, and
set RES_TXT_LEN = 0. -/
def Obligations.EmptyFormatSucceeds : Prop :=
  ∀ (s : State) (i : Instr), i ∈ [Instr.formatRaw, .formatHex, .formatHexText] → s.latched.srcLen = 0 →
    ∃ t, exec i s = .next t ∧ SucceededStatus s t ∧ t.buf = s.buf ∧ t.res = { s.res with txtLen := 0 }

/-- 43_output_formatter.md R117: FORMAT_RAW copies the source bytes, and RES_TXT_LEN is their number. -/
def Obligations.FormatRawCopies : Prop :=
  ∀ s : State, s.latched.n ≠ 0 →
    s.latched.srcRegion.inBounds s.params.memBytes = true →
    (s.latched.txtRegion s.latched.n).inBounds s.params.memBytes = true →
    s.latched.srcRegion.overlaps (s.latched.txtRegion s.latched.n) = false →
    ∃ t, exec .formatRaw s = .next t ∧ SucceededStatus s t ∧ t.res = { s.res with txtLen := s.latched.srcLen } ∧
      ∀ i, i < s.latched.n →
        memRead t.buf (s.latched.txtBase.toNat + i) = memRead s.buf (s.latched.srcBase.toNat + i)

/-- 43_output_formatter.md R118, R119, with the character bytes of 00_scope.md R12, which the spec marks as general
knowledge and its own choice (log entry 15): FORMAT_HEX writes token i at bytes 4i to 4i + 3. -/
def Obligations.FormatHexWritesTokens : Prop :=
  ∀ s : State, s.latched.n ≠ 0 →
    s.latched.srcRegion.inBounds s.params.memBytes = true →
    (s.latched.txtRegion (4 * s.latched.n)).inBounds s.params.memBytes = true →
    s.latched.srcRegion.overlaps (s.latched.txtRegion (4 * s.latched.n)) = false →
    ∃ t, exec .formatHex s = .next t ∧ SucceededStatus s t ∧
      t.res = { s.res with txtLen := BitVec.ofNat 32 (4 * s.latched.n) } ∧
      ∀ i v hi lo : Nat, i < s.latched.n → v = (memRead s.buf (s.latched.srcBase.toNat + i)).toNat →
        hi = v / 16 → lo = v % 16 →
        memRead t.buf (s.latched.txtBase.toNat + 4 * i) = 0x30 ∧
        memRead t.buf (s.latched.txtBase.toNat + 4 * i + 1) = 0x78 ∧
        (memRead t.buf (s.latched.txtBase.toNat + 4 * i + 2)).toNat = (if hi < 10 then 0x30 + hi else 0x61 + (hi - 10)) ∧
        (memRead t.buf (s.latched.txtBase.toNat + 4 * i + 3)).toNat = (if lo < 10 then 0x30 + lo else 0x61 + (lo - 10))

/-- 43_output_formatter.md R120 to R123, with the character bytes of 00_scope.md R12, which the spec marks as general
knowledge and its own choice (log entry 15): FORMAT_HEX_TEXT writes token i at 6i, and after every token but the last a comma
and a line break when B ≠ 0 divides i + 1, else a comma and a space. -/
def Obligations.FormatHexTextLaysOutTheText : Prop :=
  ∀ s : State, s.latched.n ≠ 0 →
    s.latched.srcRegion.inBounds s.params.memBytes = true →
    (s.latched.txtRegion (6 * s.latched.n - 2)).inBounds s.params.memBytes = true →
    s.latched.srcRegion.overlaps (s.latched.txtRegion (6 * s.latched.n - 2)) = false →
    ∃ t, exec .formatHexText s = .next t ∧ SucceededStatus s t ∧
      t.res = { s.res with txtLen := BitVec.ofNat 32 (6 * s.latched.n - 2) } ∧
      (∀ i k, i < s.latched.n → k < 4 →
        memRead t.buf (s.latched.txtBase.toNat + 6 * i + k) =
          (token (memRead s.buf (s.latched.srcBase.toNat + i))).getD k 0) ∧
      (∀ i, i + 1 < s.latched.n →
        memRead t.buf (s.latched.txtBase.toNat + 6 * i + 4) = 0x2C ∧
        memRead t.buf (s.latched.txtBase.toNat + 6 * i + 5) =
          if s.latched.lineBreak.toNat ≠ 0 ∧ (i + 1) % s.latched.lineBreak.toNat = 0 then 0x0A else 0x20)

/-- 43_output_formatter.md R124: SIZE always succeeds, RES_SIZE <- SRC_LEN, and no BUF byte changes. -/
def Obligations.SizeReportsSrcLen : Prop :=
  ∀ s : State, exec .size s = .next { s with
    res := { s.res with size := s.latched.srcLen }
    status := { busy := false, done := true, err := false, overrun := s.status.overrun, errCode := 0, errDetail := 0 }
    inflight := none }

/-- 43_output_formatter.md R126, R127, with the character bytes of 00_scope.md R12, which the spec marks as general knowledge
and its own choice (log entry 15): PREVIEW writes H lines of W characters, each map value as it is stored, each line ended by
a line break. -/
def Obligations.PreviewRendersTheMap : Prop :=
  ∀ s : State,
    s.latched.w ≠ 0 → s.latched.h ≠ 0 → s.latched.lmapRegion.inBounds s.params.memBytes = true →
    (s.latched.txtRegion (s.latched.h * (s.latched.w + 1))).inBounds s.params.memBytes = true →
    s.latched.lmapRegion.overlaps (s.latched.txtRegion (s.latched.h * (s.latched.w + 1))) = false →
    (∀ x y, x < s.latched.w → y < s.latched.h → (mapByte s.latched s.buf x y).toNat ≤ 1) →
    ∃ t, exec .preview s = .next t ∧ SucceededStatus s t ∧
      t.res = { s.res with txtLen := BitVec.ofNat 32 (s.latched.h * (s.latched.w + 1)) } ∧
      ∀ y, y < s.latched.h →
        (∀ x, x < s.latched.w →
          memRead t.buf (s.latched.txtBase.toNat + y * (s.latched.w + 1) + x) =
            if memRead s.buf (s.latched.lmapBase.toNat + y * s.latched.w + x) = 1 then 0x31 else 0x30) ∧
        memRead t.buf (s.latched.txtBase.toNat + y * (s.latched.w + 1) + s.latched.w) = 0x0A

/-! ## GENERATE -/

/-- 44_codec_facade.md R136, R138, R141: with a recognized mode, the right pixel length and in-bounds, pairwise disjoint
regions GENERATE succeeds on both paths and writes all eight result registers. -/
def Obligations.GenerateReportsItsResults : Prop :=
  ∀ (s : State) (mode : Mode) (size tlen : Nat),
    s.latched.mode = some mode → s.latched.w ≠ 0 → s.latched.h ≠ 0 →
    s.latched.pixLen.toNat = 4 * s.latched.w * s.latched.h →
    size = (if s.latched.config.getLsbD 3 then 2 * s.latched.w * s.latched.h
      else mode.packedSize s.latched.w s.latched.h) →
    tlen = (if s.latched.config.getLsbD 2 then 4 * size else size) →
    s.latched.pixRegion.inBounds s.params.memBytes = true →
    (s.latched.config.getLsbD 3 = false → s.latched.lmapRegion.inBounds s.params.memBytes = true) →
    (s.latched.outRegion size).inBounds s.params.memBytes = true →
    (s.latched.txtRegion tlen).inBounds s.params.memBytes = true →
    s.latched.pixRegion.overlaps (s.latched.outRegion size) = false →
    s.latched.pixRegion.overlaps (s.latched.txtRegion tlen) = false →
    (s.latched.outRegion size).overlaps (s.latched.txtRegion tlen) = false →
    (s.latched.config.getLsbD 3 = false → s.latched.pixRegion.overlaps s.latched.lmapRegion = false ∧
      s.latched.lmapRegion.overlaps (s.latched.outRegion size) = false ∧
      s.latched.lmapRegion.overlaps (s.latched.txtRegion tlen) = false) →
    ∃ t, exec .generate s = .next t ∧ SucceededStatus s t ∧
      t.res = {
        bytes := BitVec.ofNat 32 size
        bytesPerPage := BitVec.ofNat 32
          (if s.latched.config.getLsbD 3 then 2 * s.latched.w else mode.bytesPerPage s.latched.w s.latched.h)
        pageCount := BitVec.ofNat 32 (size /
          (if s.latched.config.getLsbD 3 then 2 * s.latched.w else mode.bytesPerPage s.latched.w s.latched.h))
        width := s.latched.width
        height := s.latched.height
        info := if s.latched.config.getLsbD 3 then 8 else BitVec.ofNat 32 mode.number
        txtLen := BitVec.ofNat 32 tlen
        size := BitVec.ofNat 32 size }

/-- 44_codec_facade.md R139: a successful monochrome GENERATE, taken from an idle state, leaves BUF exactly as BINARIZE, then
PACK, then the formatter over the packed bytes leave it, one command after another; its metadata are PACK's and its text
length the formatter's. -/
def Obligations.MonochromeGenerateIsTheComposition : Prop :=
  ∀ s t : State, s.inflight = none → s.params.memBytes ≤ 2 ^ 32 → s.cfg.color = false →
    exec .generate s = .next t → t.status.err = false →
    ∃ s1 s2 s3 : State,
      exec .binarize s = .next s1 ∧ s1.status.err = false ∧
      exec .pack s1 = .next s2 ∧ s2.status.err = false ∧
      exec (if s.cfg.hexOut then .formatHex else .formatRaw)
        { s2 with cfg := { s2.cfg with srcBase := s.cfg.outBase, srcLen := s2.res.bytes } } = .next s3 ∧
      s3.status.err = false ∧ t.buf = s3.buf ∧
      t.res = { s2.res with txtLen := s3.res.txtLen, size := s2.res.bytes }

/-- 44_codec_facade.md R139: a successful colour GENERATE, taken from an idle state, leaves BUF exactly as PACK_COLOR and then
the formatter over the packed bytes leave it. -/
def Obligations.ColorGenerateIsTheComposition : Prop :=
  ∀ s t : State, s.inflight = none → s.params.memBytes ≤ 2 ^ 32 → s.cfg.color = true →
    exec .generate s = .next t → t.status.err = false →
    ∃ s1 s2 : State,
      exec .packColor s = .next s1 ∧ s1.status.err = false ∧
      exec (if s.cfg.hexOut then .formatHex else .formatRaw)
        { s1 with cfg := { s1.cfg with srcBase := s.cfg.outBase, srcLen := s1.res.bytes } } = .next s2 ∧
      s2.status.err = false ∧ t.buf = s2.buf ∧
      t.res = { s1.res with txtLen := s2.res.txtLen, size := s1.res.bytes }

/-! ## Check order -/

/-- 40_binarizer.md R85, 60_exceptions.md R149: the errors of BINARIZE, in order. -/
def Obligations.BinarizeCheckOrder : Prop :=
  ∀ s : State,
    (s.latched.w = 0 → FailsWith .binarize s 1 0x01) ∧
    (s.latched.w ≠ 0 → s.latched.h = 0 → FailsWith .binarize s 1 0x02) ∧
    (s.latched.w ≠ 0 → s.latched.h ≠ 0 → s.latched.pixLen.toNat ≠ 4 * s.latched.w * s.latched.h →
      FailsWith .binarize s 1 0x03) ∧
    (s.latched.w ≠ 0 → s.latched.h ≠ 0 → s.latched.pixLen.toNat = 4 * s.latched.w * s.latched.h →
      (s.latched.pixRegion.inBounds s.params.memBytes = false → FailsWith .binarize s 3 0x01) ∧
      (s.latched.pixRegion.inBounds s.params.memBytes = true →
        (s.latched.lmapRegion.inBounds s.params.memBytes = false → FailsWith .binarize s 3 0x02) ∧
        (s.latched.lmapRegion.inBounds s.params.memBytes = true →
          s.latched.pixRegion.overlaps s.latched.lmapRegion = true → FailsWith .binarize s 3 0x06)))

/-- 41_rgb565_packer.md R93, 60_exceptions.md R149: the errors of PACK_COLOR, in order; MODE is not among them (R98). -/
def Obligations.PackColorCheckOrder : Prop :=
  ∀ (s : State) (out : Region), out = s.latched.outRegion (2 * s.latched.w * s.latched.h) →
    (s.latched.w = 0 → FailsWith .packColor s 1 0x01) ∧
    (s.latched.w ≠ 0 → s.latched.h = 0 → FailsWith .packColor s 1 0x02) ∧
    (s.latched.w ≠ 0 → s.latched.h ≠ 0 → s.latched.pixLen.toNat ≠ 4 * s.latched.w * s.latched.h →
      FailsWith .packColor s 1 0x03) ∧
    (s.latched.w ≠ 0 → s.latched.h ≠ 0 → s.latched.pixLen.toNat = 4 * s.latched.w * s.latched.h →
      (s.latched.pixRegion.inBounds s.params.memBytes = false → FailsWith .packColor s 3 0x01) ∧
      (s.latched.pixRegion.inBounds s.params.memBytes = true →
        (out.inBounds s.params.memBytes = false → FailsWith .packColor s 3 0x03) ∧
        (out.inBounds s.params.memBytes = true → s.latched.pixRegion.overlaps out = true →
          FailsWith .packColor s 3 0x06)))

/-- 42_bitmap_sampler.md R100, R102, 60_exceptions.md R149: the errors of PACK, in order: the mode first, the map bytes
last. -/
def Obligations.PackCheckOrder : Prop :=
  ∀ (s : State) (mode : Mode) (out : Region), out = s.latched.outRegion (mode.packedSize s.latched.w s.latched.h) →
    (4 ≤ s.latched.modeField.toNat → FailsWith .pack s 2 0x01) ∧
    (s.latched.mode = some mode →
      (s.latched.w = 0 → FailsWith .pack s 1 0x01) ∧
      (s.latched.w ≠ 0 → s.latched.h = 0 → FailsWith .pack s 1 0x02) ∧
      (s.latched.w ≠ 0 → s.latched.h ≠ 0 →
        (s.latched.lmapRegion.inBounds s.params.memBytes = false → FailsWith .pack s 3 0x02) ∧
        (s.latched.lmapRegion.inBounds s.params.memBytes = true →
          (out.inBounds s.params.memBytes = false → FailsWith .pack s 3 0x03) ∧
          (out.inBounds s.params.memBytes = true →
            (s.latched.lmapRegion.overlaps out = true → FailsWith .pack s 3 0x06) ∧
            (s.latched.lmapRegion.overlaps out = false →
              (∃ i, i < s.latched.w * s.latched.h ∧
                1 < (memRead s.buf (s.latched.lmapBase.toNat + i)).toNat) → FailsWith .pack s 1 0x04)))))

/-- 43_output_formatter.md R116 to R120, 60_exceptions.md R149: the errors of the three formatter commands when SRC_LEN is not
0, in order. -/
def Obligations.FormatCheckOrder : Prop :=
  ∀ (s : State) (i : Instr) (txt : Region),
    (i = .formatRaw ∧ txt = s.latched.txtRegion s.latched.n) ∨
    (i = .formatHex ∧ txt = s.latched.txtRegion (4 * s.latched.n)) ∨
    (i = .formatHexText ∧ txt = s.latched.txtRegion (6 * s.latched.n - 2)) →
    s.latched.n ≠ 0 →
    (s.latched.srcRegion.inBounds s.params.memBytes = false → FailsWith i s 3 0x04) ∧
    (s.latched.srcRegion.inBounds s.params.memBytes = true →
      (txt.inBounds s.params.memBytes = false → FailsWith i s 3 0x05) ∧
      (txt.inBounds s.params.memBytes = true → s.latched.srcRegion.overlaps txt = true → FailsWith i s 3 0x06))

/-- 43_output_formatter.md R126, 60_exceptions.md R149: the errors of PREVIEW, in order. -/
def Obligations.PreviewCheckOrder : Prop :=
  ∀ (s : State) (txt : Region), txt = s.latched.txtRegion (s.latched.h * (s.latched.w + 1)) →
    (s.latched.w = 0 → FailsWith .preview s 1 0x01) ∧
    (s.latched.w ≠ 0 → s.latched.h = 0 → FailsWith .preview s 1 0x02) ∧
    (s.latched.w ≠ 0 → s.latched.h ≠ 0 →
      (s.latched.lmapRegion.inBounds s.params.memBytes = false → FailsWith .preview s 3 0x02) ∧
      (s.latched.lmapRegion.inBounds s.params.memBytes = true →
        (txt.inBounds s.params.memBytes = false → FailsWith .preview s 3 0x05) ∧
        (txt.inBounds s.params.memBytes = true →
          (s.latched.lmapRegion.overlaps txt = true → FailsWith .preview s 3 0x06) ∧
          (s.latched.lmapRegion.overlaps txt = false →
            (∃ i, i < s.latched.w * s.latched.h ∧
              1 < (memRead s.buf (s.latched.lmapBase.toNat + i)).toNat) → FailsWith .preview s 1 0x04))))

/-- 44_codec_facade.md R136, R137, R140, 60_exceptions.md R149: the errors of GENERATE, in order: MODE first and on both
paths, and the overlap of any two of the used regions last. -/
def Obligations.GenerateCheckOrder : Prop :=
  ∀ (s : State) (out txt : Region),
    out = s.latched.outRegion s.latched.generateSize → txt = s.latched.txtRegion s.latched.generateTextLen →
    (4 ≤ s.latched.modeField.toNat → FailsWith .generate s 2 0x01) ∧
    (s.latched.modeField.toNat < 4 →
      (s.latched.w = 0 → FailsWith .generate s 1 0x01) ∧
      (s.latched.w ≠ 0 → s.latched.h = 0 → FailsWith .generate s 1 0x02) ∧
      (s.latched.w ≠ 0 → s.latched.h ≠ 0 → s.latched.pixLen.toNat ≠ 4 * s.latched.w * s.latched.h →
        FailsWith .generate s 1 0x03) ∧
      (s.latched.w ≠ 0 → s.latched.h ≠ 0 → s.latched.pixLen.toNat = 4 * s.latched.w * s.latched.h →
        (s.latched.pixRegion.inBounds s.params.memBytes = false → FailsWith .generate s 3 0x01) ∧
        (s.latched.pixRegion.inBounds s.params.memBytes = true →
          (s.latched.color = false → s.latched.lmapRegion.inBounds s.params.memBytes = false →
            FailsWith .generate s 3 0x02) ∧
          (s.latched.color = true ∨ s.latched.lmapRegion.inBounds s.params.memBytes = true →
            (out.inBounds s.params.memBytes = false → FailsWith .generate s 3 0x03) ∧
            (out.inBounds s.params.memBytes = true →
              (txt.inBounds s.params.memBytes = false → FailsWith .generate s 3 0x05) ∧
              (txt.inBounds s.params.memBytes = true →
                (s.latched.pixRegion.overlaps out = true ∨ s.latched.pixRegion.overlaps txt = true ∨
                  out.overlaps txt = true ∨
                  (s.latched.color = false ∧ (s.latched.pixRegion.overlaps s.latched.lmapRegion = true ∨
                    s.latched.lmapRegion.overlaps out = true ∨ s.latched.lmapRegion.overlaps txt = true)) →
                  FailsWith .generate s 3 0x06)))))))

/-! ## Results fit -/

/-- 10_state.md R39: "Every value written fits in 32 bits": with MEM_BYTES ≤ 2^32 each of the eight result registers that a
successful command writes holds the exact number, not a number modulo 2^32; the page count is RES_BYTES /
RES_BYTES_PER_PAGE. -/
def Obligations.ReportedLengthsAreExact : Prop :=
  ∀ (i : Instr) (s t : State), s.params.memBytes ≤ 2 ^ 32 → exec i s = .next t → t.status.err = false →
    (i = .packColor → t.res.bytes.toNat = 2 * s.latched.w * s.latched.h ∧ t.res.bytesPerPage.toNat = 2 * s.latched.w ∧
      t.res.info.toNat = 8) ∧
    (i = .pack → t.res.bytes.toNat = s.latched.packSize ∧ ∃ mode, s.latched.mode = some mode ∧
      t.res.bytesPerPage.toNat = mode.bytesPerPage s.latched.w s.latched.h ∧ t.res.info.toNat = mode.number) ∧
    (i = .generate → t.res.bytes.toNat = s.latched.generateSize ∧ ∃ mode, s.latched.mode = some mode ∧
      t.res.bytesPerPage.toNat =
        (if s.latched.color then 2 * s.latched.w else mode.bytesPerPage s.latched.w s.latched.h) ∧
      t.res.info.toNat = (if s.latched.color then 8 else mode.number)) ∧
    (i ∈ [Instr.packColor, .pack, .generate] → t.res.pageCount.toNat = t.res.bytes.toNat / t.res.bytesPerPage.toNat ∧
      t.res.width.toNat = s.latched.w ∧ t.res.height.toNat = s.latched.h) ∧
    (i = .formatRaw → t.res.txtLen.toNat = s.latched.n) ∧
    (i = .formatHex → t.res.txtLen.toNat = 4 * s.latched.n) ∧
    (i = .formatHexText → t.res.txtLen.toNat = textLen s.latched.n) ∧
    (i = .preview → t.res.txtLen.toNat = s.latched.h * (s.latched.w + 1)) ∧
    (i = .size → t.res.size.toNat = s.latched.n) ∧
    (i = .generate → t.res.txtLen.toNat = s.latched.generateTextLen ∧ t.res.size.toNat = s.latched.generateSize)

/-! ## Invariants -/

/-- Every step keeps BUF in canonical form and within MEM_BYTES (20_memory.md R50, R58), and no step changes the parameters
(00_scope.md R6). -/
def Obligations.MemoryStaysLegal : Prop :=
  ∀ s t : State, MemoryLegal s → step s = .next t → MemoryLegal t ∧ t.params = s.params

/-- Every step keeps BUSY equal to 'a command is in flight', and CMD equal to its word (10_state.md R25, R41, R43, R44). -/
def Obligations.BusyStaysMatched : Prop :=
  ∀ s t : State, BusyMatches s → step s = .next t → BusyMatches t

/-- Every step keeps the reserved bits of CONFIG and THRESHOLD at 0, in the registers and in the latch (10_state.md R29,
R32). -/
def Obligations.ReservedBitsStayClear : Prop :=
  ∀ s t : State, ReservedLegal s → step s = .next t → ReservedLegal t

/-- Every step keeps STATUS in a combination the rules allow (10_state.md R26, R27, 60_exceptions.md R147), and RES_INFO one
of its values (10_state.md R40). -/
def Obligations.StatusAndInfoStayLegal : Prop :=
  ∀ s t : State, StatusLegal s.status → InfoLegal s → step s = .next t → StatusLegal t.status ∧ InfoLegal t

/-- The reset state meets the invariants. -/
def Obligations.ResetMeetsTheInvariants : Prop :=
  MemoryLegal State.reset ∧ BusyMatches State.reset ∧ ReservedLegal State.reset ∧ StatusLegal State.reset.status ∧
    InfoLegal State.reset ∧ FaultFree State.reset ∧ MemBytes.wf State.reset.params.memBytes = true
end

