-- ==== Sys2Proof/Laws/Memory.lean ====
section
/-! SUPPORT. Memory: a read after a write, the bytes of a layout, and the canonical form, which every memory operation
keeps. -/

namespace Sys2Proof.Machine

/-! ### Reads after writes -/

theorem memLookup_memWrite (m : Memory) (a b : Nat) (v : Byte) :
    memLookup (memWrite m a v) b = if a = b then some v else memLookup m b := by
  induction m with
  | nil => simp [memWrite, memLookup]
  | cons c m ih =>
    simp only [memWrite]
    split
    · simp [memLookup]
    · split
      · rename_i h
        subst h
        simp only [memLookup]
        split <;> rfl
      · rename_i h
        simp only [memLookup, ih]
        by_cases hc : c.1 = b
        · have : a ≠ b := by omega
          simp [hc, this]
        · simp [hc]

@[simp] theorem memRead_memWrite_same (m : Memory) (a : Nat) (v : Byte) : memRead (memWrite m a v) a = v := by
  simp [memRead, memLookup_memWrite]

theorem memRead_memWrite_other (m : Memory) {a b : Nat} (v : Byte) (h : a ≠ b) :
    memRead (memWrite m a v) b = memRead m b := by
  simp [memRead, memLookup_memWrite, h]

@[simp] theorem memWriteAll_nil (m : Memory) : memWriteAll m [] = m := rfl

@[simp] theorem memWriteAll_cons (m : Memory) (c : Host.Cell) (cs : List Host.Cell) :
    memWriteAll m (c :: cs) = memWriteAll (memWrite m c.1 c.2) cs := rfl

theorem memWriteAll_append (m : Memory) (cs ds : List Host.Cell) :
    memWriteAll m (cs ++ ds) = memWriteAll (memWriteAll m cs) ds := by
  induction cs generalizing m with
  | nil => rfl
  | cons c cs ih => simp [ih]

theorem memRead_memWriteAll_other (m : Memory) (cs : List Host.Cell) {a : Nat} (h : ∀ c ∈ cs, c.1 ≠ a) :
    memRead (memWriteAll m cs) a = memRead m a := by
  induction cs generalizing m with
  | nil => rfl
  | cons c cs ih =>
    rw [memWriteAll_cons, ih _ (fun d hd => h d (List.mem_cons_of_mem c hd)),
      memRead_memWrite_other _ _ (h c List.mem_cons_self)]

/-! ### Layouts -/

@[simp] theorem layOut_nil (base : Nat) : layOut base [] = [] := rfl

@[simp] theorem layOut_cons (base : Nat) (b : Byte) (bs : List Byte) :
    layOut base (b :: bs) = (base, b) :: layOut (base + 1) bs := rfl

theorem layOut_addr {base : Nat} {bs : List Byte} {c : Host.Cell} (h : c ∈ layOut base bs) :
    base ≤ c.1 ∧ c.1 < base + bs.length := by
  induction bs generalizing base with
  | nil => cases h
  | cons b bs ih =>
    simp only [layOut_cons, List.mem_cons] at h
    simp only [List.length_cons]
    obtain rfl | h := h
    · exact ⟨Nat.le_refl base, by omega⟩
    · have := ih h
      omega

theorem memRead_layOut_outside (m : Memory) (base : Nat) (bs : List Byte) {a : Nat}
    (h : ¬(base ≤ a ∧ a < base + bs.length)) : memRead (memWriteAll m (layOut base bs)) a = memRead m a :=
  memRead_memWriteAll_other m _ fun _ hc he => h (he ▸ layOut_addr hc)

theorem memRead_layOut_inside (m : Memory) (base : Nat) (bs : List Byte) {i : Nat} (h : i < bs.length) :
    memRead (memWriteAll m (layOut base bs)) (base + i) = bs[i] := by
  induction bs generalizing m base i with
  | nil => exact absurd h (Nat.not_lt_zero i)
  | cons b bs ih =>
    cases i with
    | zero =>
      rw [layOut_cons, memWriteAll_cons, Nat.add_zero, memRead_layOut_outside _ _ _ (by omega)]
      simp
    | succ i =>
      have hi : i < bs.length := by simpa using h
      rw [layOut_cons, memWriteAll_cons, show base + (i + 1) = base + 1 + i by omega, ih _ _ hi]
      simp

@[simp] theorem readBytes_length (m : Memory) (base n : Nat) : (readBytes m base n).length = n := by
  simp [readBytes]

theorem readBytes_getElem (m : Memory) (base n : Nat) {i : Nat} (h : i < (readBytes m base n).length) :
    (readBytes m base n)[i] = memRead m (base + i) := by
  simp [readBytes]

/-- Reading back a layout gives its bytes. -/
theorem readBytes_layOut (m : Memory) (base : Nat) (bs : List Byte) :
    readBytes (memWriteAll m (layOut base bs)) base bs.length = bs := by
  apply List.ext_getElem
  · simp
  · intro i h h'
    rw [readBytes_getElem, memRead_layOut_inside]

/-! ### The canonical form -/

theorem risesFrom_mono {lo lo' : Nat} {m : Memory} (h : Memory.risesFrom lo' m = true) (hl : lo ≤ lo') :
    Memory.risesFrom lo m = true := by
  cases m with
  | nil => rfl
  | cons c m =>
    simp only [Memory.risesFrom, Bool.and_eq_true, decide_eq_true_eq] at h ⊢
    exact ⟨by omega, h.2⟩

theorem memWrite_risesFrom {lo a : Nat} {m : Memory} (v : Byte) (h : Memory.risesFrom lo m = true) (ha : lo ≤ a) :
    Memory.risesFrom lo (memWrite m a v) = true := by
  induction m generalizing lo with
  | nil => simp [memWrite, Memory.risesFrom, ha]
  | cons c m ih =>
    simp only [Memory.risesFrom, Bool.and_eq_true, decide_eq_true_eq] at h
    simp only [memWrite]
    split
    · simp only [Memory.risesFrom, Bool.and_eq_true, decide_eq_true_eq]
      exact ⟨ha, by omega, h.2⟩
    · split
      · rename_i hac
        simp only [Memory.risesFrom, Bool.and_eq_true, decide_eq_true_eq]
        exact ⟨ha, hac ▸ h.2⟩
      · simp only [Memory.risesFrom, Bool.and_eq_true, decide_eq_true_eq]
        exact ⟨h.1, ih h.2 (by omega)⟩

/-- A write keeps the canonical form. -/
theorem memWrite_wf {m : Memory} (a : Nat) (v : Byte) (h : Memory.wf m = true) : Memory.wf (memWrite m a v) = true :=
  memWrite_risesFrom v h (Nat.zero_le a)

/-- Any list of writes keeps the canonical form. -/
theorem memWriteAll_wf {m : Memory} (cs : List Host.Cell) (h : Memory.wf m = true) :
    Memory.wf (memWriteAll m cs) = true := by
  induction cs generalizing m with
  | nil => exact h
  | cons c cs ih => exact ih (memWrite_wf c.1 c.2 h)

/-- The memory of the reset state is in canonical form. -/
theorem reset_memory_wf : Memory.wf State.reset.buf = true := rfl

theorem memWrite_within {n a : Nat} {m : Memory} (v : Byte) (h : Memory.within n m = true) (ha : a < n) :
    Memory.within n (memWrite m a v) = true := by
  induction m with
  | nil => simp [memWrite, Memory.within, ha]
  | cons c m ih =>
    simp only [Memory.within, List.all_cons, Bool.and_eq_true, decide_eq_true_eq] at h ih ⊢
    simp only [memWrite]
    split
    · simp only [List.all_cons, Bool.and_eq_true, decide_eq_true_eq]
      exact ⟨ha, h⟩
    · split
      · simp only [List.all_cons, Bool.and_eq_true, decide_eq_true_eq]
        exact ⟨ha, h.2⟩
      · simp only [List.all_cons, Bool.and_eq_true, decide_eq_true_eq]
        exact ⟨h.1, ih h.2⟩

theorem memWriteAll_within {n : Nat} {m : Memory} (cs : List Host.Cell) (h : Memory.within n m = true)
    (hc : ∀ c ∈ cs, c.1 < n) : Memory.within n (memWriteAll m cs) = true := by
  induction cs generalizing m with
  | nil => exact h
  | cons c cs ih =>
    exact ih (memWrite_within c.2 h (hc c List.mem_cons_self)) fun d hd => hc d (List.mem_cons_of_mem c hd)

end Sys2Proof.Machine
end

