-- ==== Sys2Proof/Laws/State.lean ====
section
/-! SUPPORT. What each named update of the state does to each field: one lemma per field per update, so that no later
proof unfolds a record update. -/

namespace Sys2Proof.Machine

/-! ### finishOk -/

@[simp] theorem finishOk_params (s : State) (e : Effect) : (finishOk s e).params = s.params := rfl
@[simp] theorem finishOk_cmd (s : State) (e : Effect) : (finishOk s e).cmd = s.cmd := rfl
@[simp] theorem finishOk_status (s : State) (e : Effect) : (finishOk s e).status = s.status.succeeded := rfl
@[simp] theorem finishOk_cfg (s : State) (e : Effect) : (finishOk s e).cfg = s.cfg := rfl
@[simp] theorem finishOk_res (s : State) (e : Effect) : (finishOk s e).res = writeResults s.res e := rfl
@[simp] theorem finishOk_inflight (s : State) (e : Effect) : (finishOk s e).inflight = none := rfl
@[simp] theorem finishOk_buf (s : State) (e : Effect) : (finishOk s e).buf = memWriteAll s.buf e.writes := rfl
@[simp] theorem finishOk_host (s : State) (e : Effect) : (finishOk s e).host = s.host := rfl
@[simp] theorem finishOk_faults (s : State) (e : Effect) : (finishOk s e).faults = s.faults := rfl
@[simp] theorem finishOk_draws (s : State) (e : Effect) : (finishOk s e).draws = s.draws := rfl

/-! ### raiseError -/

@[simp] theorem raiseError_params (s : State) (e : CmdError) : (raiseError s e).params = s.params := rfl
@[simp] theorem raiseError_cmd (s : State) (e : CmdError) : (raiseError s e).cmd = s.cmd := rfl
@[simp] theorem raiseError_status (s : State) (e : CmdError) : (raiseError s e).status = s.status.failed e := rfl
@[simp] theorem raiseError_cfg (s : State) (e : CmdError) : (raiseError s e).cfg = s.cfg := rfl
@[simp] theorem raiseError_res (s : State) (e : CmdError) : (raiseError s e).res = s.res := rfl
@[simp] theorem raiseError_inflight (s : State) (e : CmdError) : (raiseError s e).inflight = none := rfl
@[simp] theorem raiseError_buf (s : State) (e : CmdError) : (raiseError s e).buf = s.buf := rfl
@[simp] theorem raiseError_host (s : State) (e : CmdError) : (raiseError s e).host = s.host := rfl
@[simp] theorem raiseError_faults (s : State) (e : CmdError) : (raiseError s e).faults = s.faults := rfl
@[simp] theorem raiseError_draws (s : State) (e : CmdError) : (raiseError s e).draws = s.draws := rfl

/-! ### accept -/

@[simp] theorem accept_params (s : State) (w : Word) : (accept s w).params = s.params := rfl
@[simp] theorem accept_cmd (s : State) (w : Word) : (accept s w).cmd = w := rfl
@[simp] theorem accept_status (s : State) (w : Word) : (accept s w).status = Status.accepted := rfl
@[simp] theorem accept_cfg (s : State) (w : Word) : (accept s w).cfg = s.cfg := rfl
@[simp] theorem accept_res (s : State) (w : Word) : (accept s w).res = s.res := rfl
@[simp] theorem accept_inflight (s : State) (w : Word) : (accept s w).inflight = some { word := w, latch := s.cfg, delay := Config.completionDelay s.draws } := rfl
@[simp] theorem accept_buf (s : State) (w : Word) : (accept s w).buf = s.buf := rfl
@[simp] theorem accept_host (s : State) (w : Word) : (accept s w).host = s.host := rfl
@[simp] theorem accept_faults (s : State) (w : Word) : (accept s w).faults = s.faults := rfl
@[simp] theorem accept_draws (s : State) (w : Word) : (accept s w).draws = s.draws + 1 := rfl

/-! ### drop -/

@[simp] theorem drop_params (s : State) : (drop s).params = s.params := rfl
@[simp] theorem drop_cmd (s : State) : (drop s).cmd = s.cmd := rfl
@[simp] theorem drop_status (s : State) : (drop s).status = s.status.dropped := rfl
@[simp] theorem drop_cfg (s : State) : (drop s).cfg = s.cfg := rfl
@[simp] theorem drop_res (s : State) : (drop s).res = s.res := rfl
@[simp] theorem drop_inflight (s : State) : (drop s).inflight = s.inflight := rfl
@[simp] theorem drop_buf (s : State) : (drop s).buf = s.buf := rfl
@[simp] theorem drop_host (s : State) : (drop s).host = s.host := rfl
@[simp] theorem drop_faults (s : State) : (drop s).faults = s.faults := rfl
@[simp] theorem drop_draws (s : State) : (drop s).draws = s.draws := rfl

/-! ### reply -/

@[simp] theorem reply_params (s : State) (v : Word) : (reply s v).params = s.params := rfl
@[simp] theorem reply_cmd (s : State) (v : Word) : (reply s v).cmd = s.cmd := rfl
@[simp] theorem reply_status (s : State) (v : Word) : (reply s v).status = s.status := rfl
@[simp] theorem reply_cfg (s : State) (v : Word) : (reply s v).cfg = s.cfg := rfl
@[simp] theorem reply_res (s : State) (v : Word) : (reply s v).res = s.res := rfl
@[simp] theorem reply_inflight (s : State) (v : Word) : (reply s v).inflight = s.inflight := rfl
@[simp] theorem reply_buf (s : State) (v : Word) : (reply s v).buf = s.buf := rfl
@[simp] theorem reply_host (s : State) (v : Word) : (reply s v).host = { s.host with replies := v :: s.host.replies } := rfl
@[simp] theorem reply_faults (s : State) (v : Word) : (reply s v).faults = s.faults := rfl
@[simp] theorem reply_draws (s : State) (v : Word) : (reply s v).draws = s.draws := rfl

/-! ### recordBusError -/

@[simp] theorem recordBusError_params (s : State) : (recordBusError s).params = s.params := rfl
@[simp] theorem recordBusError_cmd (s : State) : (recordBusError s).cmd = s.cmd := rfl
@[simp] theorem recordBusError_status (s : State) : (recordBusError s).status = s.status := rfl
@[simp] theorem recordBusError_cfg (s : State) : (recordBusError s).cfg = s.cfg := rfl
@[simp] theorem recordBusError_res (s : State) : (recordBusError s).res = s.res := rfl
@[simp] theorem recordBusError_inflight (s : State) : (recordBusError s).inflight = s.inflight := rfl
@[simp] theorem recordBusError_buf (s : State) : (recordBusError s).buf = s.buf := rfl
@[simp] theorem recordBusError_host (s : State) : (recordBusError s).host = s.host := rfl
@[simp] theorem recordBusError_faults (s : State) : (recordBusError s).faults = { s.faults with busError := true } := rfl
@[simp] theorem recordBusError_draws (s : State) : (recordBusError s).draws = s.draws := rfl

/-! ### recordHazard -/

@[simp] theorem recordHazard_params (s : State) (a : Nat) : (recordHazard s a).params = s.params := rfl
@[simp] theorem recordHazard_cmd (s : State) (a : Nat) : (recordHazard s a).cmd = s.cmd := rfl
@[simp] theorem recordHazard_status (s : State) (a : Nat) : (recordHazard s a).status = s.status := rfl
@[simp] theorem recordHazard_cfg (s : State) (a : Nat) : (recordHazard s a).cfg = s.cfg := rfl
@[simp] theorem recordHazard_res (s : State) (a : Nat) : (recordHazard s a).res = s.res := rfl
@[simp] theorem recordHazard_inflight (s : State) (a : Nat) : (recordHazard s a).inflight = s.inflight := rfl
@[simp] theorem recordHazard_buf (s : State) (a : Nat) : (recordHazard s a).buf = memWrite s.buf a (Config.hazardByte s.draws) := rfl
@[simp] theorem recordHazard_host (s : State) (a : Nat) : (recordHazard s a).host = s.host := rfl
@[simp] theorem recordHazard_faults (s : State) (a : Nat) : (recordHazard s a).faults = { s.faults with hazard := true } := rfl
@[simp] theorem recordHazard_draws (s : State) (a : Nat) : (recordHazard s a).draws = s.draws + 1 := rfl

/-! ### tick -/

@[simp] theorem tick_params (s : State) : (tick s).params = s.params := rfl
@[simp] theorem tick_cmd (s : State) : (tick s).cmd = s.cmd := rfl
@[simp] theorem tick_status (s : State) : (tick s).status = s.status := rfl
@[simp] theorem tick_cfg (s : State) : (tick s).cfg = s.cfg := rfl
@[simp] theorem tick_res (s : State) : (tick s).res = s.res := rfl
@[simp] theorem tick_inflight (s : State) : (tick s).inflight = s.inflight.map fun c => { c with delay := c.delay - 1 } := rfl
@[simp] theorem tick_buf (s : State) : (tick s).buf = s.buf := rfl
@[simp] theorem tick_host (s : State) : (tick s).host = s.host := rfl
@[simp] theorem tick_faults (s : State) : (tick s).faults = s.faults := rfl
@[simp] theorem tick_draws (s : State) : (tick s).draws = s.draws := rfl

/-! ### issued -/

@[simp] theorem issued_params (s : State) (rest : List HostOp) : (issued s rest).params = s.params := rfl
@[simp] theorem issued_cmd (s : State) (rest : List HostOp) : (issued s rest).cmd = s.cmd := rfl
@[simp] theorem issued_status (s : State) (rest : List HostOp) : (issued s rest).status = s.status := rfl
@[simp] theorem issued_cfg (s : State) (rest : List HostOp) : (issued s rest).cfg = s.cfg := rfl
@[simp] theorem issued_res (s : State) (rest : List HostOp) : (issued s rest).res = s.res := rfl
@[simp] theorem issued_inflight (s : State) (rest : List HostOp) : (issued s rest).inflight = s.inflight := rfl
@[simp] theorem issued_buf (s : State) (rest : List HostOp) : (issued s rest).buf = s.buf := rfl
@[simp] theorem issued_host (s : State) (rest : List HostOp) : (issued s rest).host = { s.host with todo := rest } := rfl
@[simp] theorem issued_faults (s : State) (rest : List HostOp) : (issued s rest).faults = s.faults := rfl
@[simp] theorem issued_draws (s : State) (rest : List HostOp) : (issued s rest).draws = s.draws := rfl

/-! ### resetBlock -/

@[simp] theorem resetBlock_params (s : State) : (resetBlock s).params = s.params := rfl
@[simp] theorem resetBlock_cmd (s : State) : (resetBlock s).cmd = 0 := rfl
@[simp] theorem resetBlock_status (s : State) : (resetBlock s).status = Status.atReset := rfl
@[simp] theorem resetBlock_cfg (s : State) : (resetBlock s).cfg = ConfigRegs.atReset := rfl
@[simp] theorem resetBlock_res (s : State) : (resetBlock s).res = ResultRegs.atReset := rfl
@[simp] theorem resetBlock_inflight (s : State) : (resetBlock s).inflight = none := rfl
@[simp] theorem resetBlock_buf (s : State) : (resetBlock s).buf = resetBuf s := rfl
@[simp] theorem resetBlock_host (s : State) : (resetBlock s).host = s.host := rfl
@[simp] theorem resetBlock_faults (s : State) : (resetBlock s).faults = s.faults := rfl
@[simp] theorem resetBlock_draws (s : State) : (resetBlock s).draws = s.draws + 1 := rfl

/-! ### placeCommand -/

@[simp] theorem placeCommand_params (s : State) (w : Word) : (placeCommand s w).params = s.params := rfl
@[simp] theorem placeCommand_cmd (s : State) (w : Word) : (placeCommand s w).cmd = w := rfl
@[simp] theorem placeCommand_status (s : State) (w : Word) : (placeCommand s w).status = Status.accepted := rfl
@[simp] theorem placeCommand_cfg (s : State) (w : Word) : (placeCommand s w).cfg = s.cfg := rfl
@[simp] theorem placeCommand_res (s : State) (w : Word) : (placeCommand s w).res = s.res := rfl
@[simp] theorem placeCommand_inflight (s : State) (w : Word) : (placeCommand s w).inflight = some { word := w, latch := s.cfg, delay := 0 } := rfl
@[simp] theorem placeCommand_buf (s : State) (w : Word) : (placeCommand s w).buf = s.buf := rfl
@[simp] theorem placeCommand_host (s : State) (w : Word) : (placeCommand s w).host = s.host := rfl
@[simp] theorem placeCommand_faults (s : State) (w : Word) : (placeCommand s w).faults = { busError := false, hazard := false } := rfl
@[simp] theorem placeCommand_draws (s : State) (w : Word) : (placeCommand s w).draws = s.draws := rfl

/-! ### STATUS -/

@[simp] theorem status_succeeded_busy (st : Status) : (st.succeeded).busy = false := rfl
@[simp] theorem status_succeeded_done (st : Status) : (st.succeeded).done = true := rfl
@[simp] theorem status_succeeded_err (st : Status) : (st.succeeded).err = false := rfl
@[simp] theorem status_succeeded_overrun (st : Status) : (st.succeeded).overrun = st.overrun := rfl
@[simp] theorem status_succeeded_errCode (st : Status) : (st.succeeded).errCode = 0 := rfl
@[simp] theorem status_succeeded_errDetail (st : Status) : (st.succeeded).errDetail = 0 := rfl

@[simp] theorem status_failed_busy (st : Status) (e : CmdError) : (st.failed e).busy = false := rfl
@[simp] theorem status_failed_done (st : Status) (e : CmdError) : (st.failed e).done = true := rfl
@[simp] theorem status_failed_err (st : Status) (e : CmdError) : (st.failed e).err = true := rfl
@[simp] theorem status_failed_overrun (st : Status) (e : CmdError) : (st.failed e).overrun = st.overrun := rfl
@[simp] theorem status_failed_errCode (st : Status) (e : CmdError) : (st.failed e).errCode = e.code := rfl
@[simp] theorem status_failed_errDetail (st : Status) (e : CmdError) : (st.failed e).errDetail = e.detail := rfl

@[simp] theorem status_dropped_busy (st : Status) : (st.dropped).busy = st.busy := rfl
@[simp] theorem status_dropped_done (st : Status) : (st.dropped).done = st.done := rfl
@[simp] theorem status_dropped_err (st : Status) : (st.dropped).err = st.err := rfl
@[simp] theorem status_dropped_overrun (st : Status) : (st.dropped).overrun = true := rfl
@[simp] theorem status_dropped_errCode (st : Status) : (st.dropped).errCode = st.errCode := rfl
@[simp] theorem status_dropped_errDetail (st : Status) : (st.dropped).errDetail = st.errDetail := rfl

@[simp] theorem status_accepted_busy : Status.accepted.busy = true := rfl
@[simp] theorem status_accepted_done : Status.accepted.done = false := rfl
@[simp] theorem status_accepted_err : Status.accepted.err = false := rfl
@[simp] theorem status_accepted_overrun : Status.accepted.overrun = false := rfl
@[simp] theorem status_accepted_errCode : Status.accepted.errCode = 0 := rfl
@[simp] theorem status_accepted_errDetail : Status.accepted.errDetail = 0 := rfl

@[simp] theorem status_atReset_busy : Status.atReset.busy = false := rfl
@[simp] theorem status_atReset_done : Status.atReset.done = false := rfl
@[simp] theorem status_atReset_err : Status.atReset.err = false := rfl
@[simp] theorem status_atReset_overrun : Status.atReset.overrun = false := rfl
@[simp] theorem status_atReset_errCode : Status.atReset.errCode = 0 := rfl
@[simp] theorem status_atReset_errDetail : Status.atReset.errDetail = 0 := rfl

/-! ### Result registers -/

@[simp] theorem writeResults_bytes (r : ResultRegs) (e : Effect) :
    (writeResults r e).bytes = (writePacked r e.packed).bytes := rfl
@[simp] theorem writeResults_bytesPerPage (r : ResultRegs) (e : Effect) :
    (writeResults r e).bytesPerPage = (writePacked r e.packed).bytesPerPage := rfl
@[simp] theorem writeResults_pageCount (r : ResultRegs) (e : Effect) :
    (writeResults r e).pageCount = (writePacked r e.packed).pageCount := rfl
@[simp] theorem writeResults_width (r : ResultRegs) (e : Effect) :
    (writeResults r e).width = (writePacked r e.packed).width := rfl
@[simp] theorem writeResults_height (r : ResultRegs) (e : Effect) :
    (writeResults r e).height = (writePacked r e.packed).height := rfl
@[simp] theorem writeResults_info (r : ResultRegs) (e : Effect) :
    (writeResults r e).info = (writePacked r e.packed).info := rfl
@[simp] theorem writeResults_txtLen (r : ResultRegs) (e : Effect) :
    (writeResults r e).txtLen = writeIfAny r.txtLen e.txtLen := rfl
@[simp] theorem writeResults_size (r : ResultRegs) (e : Effect) :
    (writeResults r e).size = writeIfAny r.size e.size := rfl
@[simp] theorem writePacked_none (r : ResultRegs) : writePacked r none = r := rfl
@[simp] theorem writePacked_some (r : ResultRegs) (q : PackedMeta) :
    writePacked r (some q) = { r with bytes := q.bytes, bytesPerPage := q.bytesPerPage, pageCount := q.pageCount,
                                      width := q.width, height := q.height, info := q.info } := rfl
@[simp] theorem writeIfAny_none (v : Word) : writeIfAny v none = v := rfl
@[simp] theorem writeIfAny_some (v w : Word) : writeIfAny v (some w) = w := rfl

/-! ### The latch -/

theorem latched_of_inflight {s : State} {c : Inflight} (h : s.inflight = some c) : s.latched = c.latch := by
  simp [State.latched, h]

theorem latched_of_idle {s : State} (h : s.inflight = none) : s.latched = s.cfg := by
  simp [State.latched, h]

end Sys2Proof.Machine
end

