-- ==== Sys2Proof/Laws/Commands.lean ====
section
/-! SUPPORT. What a command can do, said once: its completion is a pure result applied to the state, its checks, the lengths
of what it writes, and that it writes inside its write regions, which lie in BUF. -/

namespace Sys2Proof.Machine

/-! ### Completion -/

/-- Every meaning is the completion of its pure result. -/
theorem exec_eq (i : Instr) (s : State) :
    exec i s = completeWith s (commandResult i s.params.memBytes s.latched s.buf) := by
  cases i <;> rfl

theorem completeWith_ok (s : State) (e : Effect) : completeWith s (.ok e) = .next (finishOk s e) := rfl

theorem completeWith_error (s : State) (e : CmdError) : completeWith s (.error e) = .next (raiseError s e) := rfl

/-- Everything a meaning can answer: a success with the effect of its result, or an error completion. -/
theorem exec_next {i : Instr} {s t : State} (h : exec i s = .next t) :
    (∃ e, commandResult i s.params.memBytes s.latched s.buf = .ok e ∧ t = finishOk s e) ∨
    (∃ e, commandResult i s.params.memBytes s.latched s.buf = .error e ∧ t = raiseError s e) := by
  rw [exec_eq] at h
  cases hr : commandResult i s.params.memBytes s.latched s.buf with
  | ok e => rw [hr, completeWith_ok] at h; cases h; exact .inl ⟨e, rfl, rfl⟩
  | error e => rw [hr, completeWith_error] at h; cases h; exact .inr ⟨e, rfl, rfl⟩

theorem exec_of_ok {i : Instr} {s : State} {e : Effect}
    (h : commandResult i s.params.memBytes s.latched s.buf = .ok e) : exec i s = .next (finishOk s e) := by
  rw [exec_eq, h, completeWith_ok]

theorem exec_of_error {i : Instr} {s : State} {e : CmdError}
    (h : commandResult i s.params.memBytes s.latched s.buf = .error e) : exec i s = .next (raiseError s e) := by
  rw [exec_eq, h, completeWith_error]

/-! ### Checks -/

@[simp] theorem checked_none (effect : Unit → Effect) : checked none effect = .ok (effect ()) := rfl

@[simp] theorem checked_some (e : CmdError) (effect : Unit → Effect) : checked (some e) effect = .error e := rfl

theorem checked_ok {f : Option CmdError} {effect : Unit → Effect} {e : Effect} (h : checked f effect = .ok e) :
    f = none ∧ e = effect () := by
  cases f with
  | none => cases h; exact ⟨rfl, rfl⟩
  | some x => cases h

theorem inBounds_iff (n : Nat) (r : Region) : r.inBounds n = true ↔ r.len = 0 ∨ r.base + r.len ≤ n := by
  simp [Region.inBounds]

theorem overlaps_iff (r q : Region) :
    r.overlaps q = true ↔ r.len ≠ 0 ∧ q.len ≠ 0 ∧ r.base < q.base + q.len ∧ q.base < r.base + r.len := by
  simp [Region.overlaps, and_assoc]

/-- Two regions overlap exactly when they share an address (00_scope.md R11). -/
theorem overlaps_iff_shared (r q : Region) :
    r.overlaps q = true ↔ ∃ a, (r.base ≤ a ∧ a < r.base + r.len) ∧ (q.base ≤ a ∧ a < q.base + q.len) := by
  rw [overlaps_iff]
  constructor
  · rintro ⟨hr, hq, h1, h2⟩
    exact ⟨max r.base q.base, by omega, by omega⟩
  · rintro ⟨a, ⟨h1, h2⟩, h3, h4⟩
    omega

theorem contains_iff (r : Region) (a : Nat) : r.contains a = true ↔ r.base ≤ a ∧ a < r.base + r.len := by
  simp [Region.contains]

theorem outsideAll_iff (rs : List Region) (a : Nat) : OutsideAll rs a ↔ anyContains rs a = false := by
  simp only [OutsideAll, anyContains, List.any_eq_false, contains_iff]

theorem binarizeError_none {n : Nat} {L : ConfigRegs} (h : binarizeError n L = none) :
    L.w ≠ 0 ∧ L.h ≠ 0 ∧ L.pixLen.toNat = 4 * L.w * L.h ∧ L.pixRegion.inBounds n = true ∧
    L.lmapRegion.inBounds n = true ∧ L.pixRegion.overlaps L.lmapRegion = false := by
  unfold binarizeError at h
  repeat' split at h
  all_goals simp_all

theorem packColorError_none {n : Nat} {L : ConfigRegs} (h : packColorError n L = none) :
    L.w ≠ 0 ∧ L.h ≠ 0 ∧ L.pixLen.toNat = 4 * L.w * L.h ∧ L.pixRegion.inBounds n = true ∧
    (L.outRegion (2 * L.w * L.h)).inBounds n = true ∧ L.pixRegion.overlaps (L.outRegion (2 * L.w * L.h)) = false := by
  unfold packColorError at h
  repeat' split at h
  all_goals simp_all

theorem packError_none {n : Nat} {L : ConfigRegs} {mode : Mode} {m : Memory} (h : packError n L mode m = none) :
    L.w ≠ 0 ∧ L.h ≠ 0 ∧ L.lmapRegion.inBounds n = true ∧ (L.outRegion (mode.packedSize L.w L.h)).inBounds n = true ∧
    L.lmapRegion.overlaps (L.outRegion (mode.packedSize L.w L.h)) = false ∧ badMapValue L m = false := by
  unfold packError at h
  repeat' split at h
  all_goals simp_all

theorem formatError_none {n : Nat} {L : ConfigRegs} {len : Nat} (h : formatError n L len = none) :
    L.n = 0 ∨ (L.srcRegion.inBounds n = true ∧ (L.txtRegion len).inBounds n = true ∧
      L.srcRegion.overlaps (L.txtRegion len) = false) := by
  unfold formatError at h
  repeat' split at h
  all_goals simp_all

theorem previewError_none {n : Nat} {L : ConfigRegs} {m : Memory} (h : previewError n L m = none) :
    L.w ≠ 0 ∧ L.h ≠ 0 ∧ L.lmapRegion.inBounds n = true ∧ (L.txtRegion (L.h * (L.w + 1))).inBounds n = true ∧
    L.lmapRegion.overlaps (L.txtRegion (L.h * (L.w + 1))) = false ∧ badMapValue L m = false := by
  unfold previewError at h
  repeat' split at h
  all_goals simp_all

theorem generateError_none {n : Nat} {L : ConfigRegs} (h : generateError n L = none) :
    L.w ≠ 0 ∧ L.h ≠ 0 ∧ L.pixLen.toNat = 4 * L.w * L.h ∧ L.pixRegion.inBounds n = true ∧
    (L.color = false → L.lmapRegion.inBounds n = true) ∧ (L.outRegion L.generateSize).inBounds n = true ∧
    (L.txtRegion L.generateTextLen).inBounds n = true ∧ anyOverlap (generateRegions L) = false := by
  unfold generateError at h
  repeat' split at h
  all_goals simp_all

/-! ### What a success of each command is -/

theorem binarize_ok {n : Nat} {L : ConfigRegs} {m : Memory} {e : Effect} (h : commandResult .binarize n L m = .ok e) :
    binarizeError n L = none ∧ e = { writes := binarizeWrites L m, packed := none, txtLen := none, size := none } := by
  simp only [commandResult, binarize] at h
  exact checked_ok h

theorem packColor_ok {n : Nat} {L : ConfigRegs} {m : Memory} {e : Effect}
    (h : commandResult .packColor n L m = .ok e) :
    packColorError n L = none ∧
      e = { writes := packColorWrites L m, packed := some (colorMeta L), txtLen := none, size := none } := by
  simp only [commandResult, packColor] at h
  exact checked_ok h

theorem pack_ok {n : Nat} {L : ConfigRegs} {m : Memory} {e : Effect} (h : commandResult .pack n L m = .ok e) :
    ∃ mode, L.mode = some mode ∧ packError n L mode m = none ∧
      e = { writes := packWrites L mode m, packed := some (packMeta L mode), txtLen := none, size := none } := by
  simp only [commandResult, pack] at h
  split at h
  · cases h
  · rename_i mode hm
    exact ⟨mode, hm, checked_ok h⟩

theorem formatRaw_ok {n : Nat} {L : ConfigRegs} {m : Memory} {e : Effect}
    (h : commandResult .formatRaw n L m = .ok e) :
    formatError n L L.n = none ∧
      e = { writes := layOut L.txtBase.toNat (sourceBytes L m), packed := none, txtLen := some (BitVec.ofNat 32 L.n),
            size := none } := by
  simp only [commandResult, formatRaw, formatted] at h
  exact checked_ok h

theorem formatHex_ok {n : Nat} {L : ConfigRegs} {m : Memory} {e : Effect}
    (h : commandResult .formatHex n L m = .ok e) :
    formatError n L (4 * L.n) = none ∧
      e = { writes := layOut L.txtBase.toNat (hexTokens (sourceBytes L m)), packed := none,
            txtLen := some (BitVec.ofNat 32 (4 * L.n)), size := none } := by
  simp only [commandResult, formatHex, formatted] at h
  exact checked_ok h

theorem formatHexText_ok {n : Nat} {L : ConfigRegs} {m : Memory} {e : Effect}
    (h : commandResult .formatHexText n L m = .ok e) :
    formatError n L (textLen L.n) = none ∧
      e = { writes := layOut L.txtBase.toNat (hexText L.lineBreak.toNat 0 (sourceBytes L m)), packed := none,
            txtLen := some (BitVec.ofNat 32 (textLen L.n)), size := none } := by
  simp only [commandResult, formatHexText, formatted] at h
  exact checked_ok h

theorem size_ok {n : Nat} {L : ConfigRegs} {m : Memory} {e : Effect} (h : commandResult .size n L m = .ok e) :
    e = { writes := [], packed := none, txtLen := none, size := some L.srcLen } := by
  cases h
  rfl

theorem preview_ok {n : Nat} {L : ConfigRegs} {m : Memory} {e : Effect} (h : commandResult .preview n L m = .ok e) :
    previewError n L m = none ∧
      e = { writes := layOut L.txtBase.toNat (previewText L m), packed := none,
            txtLen := some (BitVec.ofNat 32 (L.h * (L.w + 1))), size := none } := by
  simp only [commandResult, preview] at h
  exact checked_ok h

theorem generate_ok {n : Nat} {L : ConfigRegs} {m : Memory} {e : Effect} (h : commandResult .generate n L m = .ok e) :
    ∃ mode, L.mode = some mode ∧ generateError n L = none ∧
      e = { writes := generateWrites L mode m, packed := some (generateMeta L mode),
            txtLen := some (BitVec.ofNat 32 L.generateTextLen), size := some (BitVec.ofNat 32 L.generateSize) } := by
  simp only [commandResult, generate] at h
  split at h
  · cases h
  · rename_i mode hm
    exact ⟨mode, hm, checked_ok h⟩

/-! ### Lengths -/

theorem length_flatMap_const {α : Type} (l : List α) (f : α → List Byte) (k : Nat) (h : ∀ a, (f a).length = k) :
    (l.flatMap f).length = k * l.length := by
  induction l with
  | nil => simp
  | cons a l ih => rw [List.flatMap_cons, List.length_append, h, ih, List.length_cons, Nat.mul_succ, Nat.add_comm]

@[simp] theorem luminanceMap_length (L : ConfigRegs) (m : Memory) : (luminanceMap L m).length = L.w * L.h := by
  simp [luminanceMap]

@[simp] theorem colorBytes_length (L : ConfigRegs) (m : Memory) : (colorBytes L m).length = 2 * L.w * L.h := by
  rw [colorBytes, length_flatMap_const _ _ 2 fun _ => rfl, List.length_range, Nat.mul_assoc]

theorem packPixel_length (L : ConfigRegs) (mode : Mode) (m : Memory) (out : List Byte) (p : Nat × Nat) :
    (packPixel L mode m out p).length = out.length := by
  unfold packPixel
  split <;> simp

theorem packLoop_length (L : ConfigRegs) (mode : Mode) (m : Memory) (ps : List (Nat × Nat)) (out : List Byte) :
    (ps.foldl (packPixel L mode m) out).length = out.length := by
  induction ps generalizing out with
  | nil => rfl
  | cons p ps ih => rw [List.foldl_cons, ih, packPixel_length]

@[simp] theorem packBytes_length (L : ConfigRegs) (mode : Mode) (m : Memory) :
    (packBytes L mode m).length = mode.packedSize L.w L.h := by
  simp [packBytes, packLoop_length]

@[simp] theorem token_length (v : Byte) : (token v).length = 4 := rfl

@[simp] theorem hexTokens_length (bs : List Byte) : (hexTokens bs).length = 4 * bs.length :=
  length_flatMap_const _ _ 4 token_length

@[simp] theorem separator_length (B i : Nat) : (separator B i).length = 2 := by
  unfold separator
  split <;> rfl

@[simp] theorem hexText_length (B i : Nat) (bs : List Byte) : (hexText B i bs).length = textLen bs.length := by
  induction bs generalizing i with
  | nil => rfl
  | cons v vs ih =>
    cases vs with
    | nil => rfl
    | cons w ws =>
      rw [hexText, List.length_append, List.length_append, ih]
      simp only [token_length, separator_length, textLen, List.length_cons, Nat.succ_ne_zero, if_false]
      omega

@[simp] theorem sourceBytes_length (L : ConfigRegs) (m : Memory) : (sourceBytes L m).length = L.n := by
  simp [sourceBytes]

@[simp] theorem previewText_length (L : ConfigRegs) (m : Memory) : (previewText L m).length = L.h * (L.w + 1) := by
  rw [previewText, length_flatMap_const _ _ (L.w + 1) fun _ => by simp, List.length_range, Nat.mul_comm]

@[simp] theorem generateText_length (L : ConfigRegs) (m : Memory) :
    (generateText L m).length = L.generateTextLen := by
  unfold generateText ConfigRegs.generateTextLen
  split <;> simp

theorem generateSize_eq {L : ConfigRegs} {mode : Mode} (h : L.mode = some mode) :
    L.generateSize = if L.color then 2 * L.w * L.h else mode.packedSize L.w L.h := by
  simp [ConfigRegs.generateSize, ConfigRegs.packSize, h]

/-! ### Where a successful command writes -/

/-- A layout of len bytes writes inside Region(base, len). -/
theorem layOut_in_region {base : Nat} {bs : List Byte} {len : Nat} (hl : bs.length = len) {c : Host.Cell}
    (h : c ∈ layOut base bs) : (Region.mk base len).base ≤ c.1 ∧ c.1 < (Region.mk base len).base + (Region.mk base len).len := by
  have := layOut_addr h
  exact ⟨this.1, hl ▸ this.2⟩

/-- A successful command writes only inside its write regions (20_memory.md R58, 30_encoding.md R75). -/
theorem writes_in_regions {i : Instr} {n : Nat} {L : ConfigRegs} {m : Memory} {e : Effect}
    (h : commandResult i n L m = .ok e) {c : Host.Cell} (hc : c ∈ e.writes) :
    ∃ r ∈ writeRegions i L, r.base ≤ c.1 ∧ c.1 < r.base + r.len := by
  cases i with
  | binarize =>
    obtain ⟨-, rfl⟩ := binarize_ok h
    exact ⟨_, List.mem_singleton.2 rfl, layOut_in_region (luminanceMap_length L m) hc⟩
  | packColor =>
    obtain ⟨-, rfl⟩ := packColor_ok h
    exact ⟨_, List.mem_singleton.2 rfl, layOut_in_region (colorBytes_length L m) hc⟩
  | pack =>
    obtain ⟨mode, hm, -, rfl⟩ := pack_ok h
    refine ⟨_, List.mem_singleton.2 rfl, layOut_in_region ?_ hc⟩
    simp [ConfigRegs.packSize, hm]
  | formatRaw =>
    obtain ⟨-, rfl⟩ := formatRaw_ok h
    exact ⟨_, List.mem_singleton.2 rfl, layOut_in_region (sourceBytes_length L m) hc⟩
  | formatHex =>
    obtain ⟨-, rfl⟩ := formatHex_ok h
    exact ⟨_, List.mem_singleton.2 rfl, layOut_in_region (by simp) hc⟩
  | formatHexText =>
    obtain ⟨-, rfl⟩ := formatHexText_ok h
    exact ⟨_, List.mem_singleton.2 rfl, layOut_in_region (by simp) hc⟩
  | size => cases size_ok h; cases hc
  | preview =>
    obtain ⟨-, rfl⟩ := preview_ok h
    exact ⟨_, List.mem_singleton.2 rfl, layOut_in_region (previewText_length L m) hc⟩
  | generate =>
    obtain ⟨mode, hm, -, rfl⟩ := generate_ok h
    have hs := generateSize_eq hm
    simp only [generateWrites, generatePackWrites, List.mem_append] at hc
    simp only [writeRegions]
    split at hc <;> rename_i hcol
    · rw [if_pos hcol]
      obtain hc | hc := hc
      · refine ⟨_, List.mem_cons_self, layOut_in_region ?_ hc⟩
        rw [colorBytes_length, hs, if_pos hcol]
      · exact ⟨_, List.mem_cons_of_mem _ List.mem_cons_self, layOut_in_region (by simp) hc⟩
    · rw [if_neg hcol]
      obtain hc | hc := hc
      · obtain hc | hc := List.mem_append.1 hc
        · exact ⟨_, List.mem_cons_self, layOut_in_region (luminanceMap_length L m) hc⟩
        · refine ⟨_, List.mem_cons_of_mem _ List.mem_cons_self, layOut_in_region ?_ hc⟩
          rw [packBytes_length, hs, if_neg hcol]
      · exact ⟨_, List.mem_cons_of_mem _ (List.mem_cons_of_mem _ List.mem_cons_self),
          layOut_in_region (by simp) hc⟩

/-- A formatter command that passes its checks has its text region in BUF; it is empty when SRC_LEN = 0. -/
theorem formatError_txt_inBounds {n : Nat} {L : ConfigRegs} {len : Nat} (h : formatError n L len = none)
    (h0 : L.n = 0 → len = 0) : (L.txtRegion len).inBounds n = true := by
  obtain h' | h' := formatError_none h
  · exact (inBounds_iff _ _).2 (.inl (h0 h'))
  · exact h'.2.1

/-- The write regions of a successful command lie in BUF (20_memory.md R58). -/
theorem regions_in_bounds {i : Instr} {n : Nat} {L : ConfigRegs} {m : Memory} {e : Effect}
    (h : commandResult i n L m = .ok e) {r : Region} (hr : r ∈ writeRegions i L) : r.inBounds n = true := by
  cases i with
  | binarize => cases List.mem_singleton.1 hr; exact (binarizeError_none (binarize_ok h).1).2.2.2.2.1
  | packColor => cases List.mem_singleton.1 hr; exact (packColorError_none (packColor_ok h).1).2.2.2.2.1
  | pack =>
    cases List.mem_singleton.1 hr
    obtain ⟨mode, hm, hf, -⟩ := pack_ok h
    simpa [ConfigRegs.packSize, hm] using (packError_none hf).2.2.2.1
  | formatRaw => cases List.mem_singleton.1 hr; exact formatError_txt_inBounds (formatRaw_ok h).1 id
  | formatHex => cases List.mem_singleton.1 hr; exact formatError_txt_inBounds (formatHex_ok h).1 (by omega)
  | formatHexText =>
    cases List.mem_singleton.1 hr
    exact formatError_txt_inBounds (formatHexText_ok h).1 fun h0 => by rw [h0]; rfl
  | size => cases hr
  | preview => cases List.mem_singleton.1 hr; exact (previewError_none (preview_ok h).1).2.2.2.1
  | generate =>
    obtain ⟨mode, -, hf, -⟩ := generate_ok h
    obtain ⟨-, -, -, -, hl, ho, ht, -⟩ := generateError_none hf
    simp only [writeRegions] at hr
    split at hr <;> rename_i hcol <;> simp only [List.mem_cons, List.not_mem_nil, or_false] at hr
    · obtain rfl | rfl := hr <;> assumption
    · obtain rfl | rfl | rfl := hr
      · exact hl (by simpa using hcol)
      · assumption
      · assumption

/-- A successful command writes only addresses of BUF. -/
theorem writes_in_buf {i : Instr} {n : Nat} {L : ConfigRegs} {m : Memory} {e : Effect}
    (h : commandResult i n L m = .ok e) {c : Host.Cell} (hc : c ∈ e.writes) : c.1 < n := by
  obtain ⟨r, hr, h1, h2⟩ := writes_in_regions h hc
  obtain h0 | h0 := (inBounds_iff _ _).1 (regions_in_bounds h hr) <;> omega

end Sys2Proof.Machine
end

