-- ==== Sys2Proof/Laws/Bytes.lean ====
section
/-! SUPPORT. The byte sequences the commands write, read one byte at a time: layouts, sequences of equal pieces, the display
string, and the packing loop bit by bit. -/

namespace Sys2Proof.Machine

/-! ### Sequences -/

/-- A byte of a layout, read back. -/
theorem memRead_layOut_getD (m : Memory) (base : Nat) (bs : List Byte) {i : Nat} (h : i < bs.length) :
    memRead (memWriteAll m (layOut base bs)) (base + i) = bs.getD i 0 := by
  rw [memRead_layOut_inside m base bs h, List.getD_eq_getElem _ _ h]

/-- A sequence of pieces of k bytes: byte j of piece i stands at k·i + j. -/
theorem getD_flatMap {α : Type} (f : α → List Byte) (k : Nat) (hk : ∀ a, (f a).length = k) (l : List α) {i j : Nat}
    (hi : i < l.length) (hj : j < k) : (l.flatMap f).getD (k * i + j) 0 = (f l[i]).getD j 0 := by
  induction l generalizing i with
  | nil => exact absurd hi (Nat.not_lt_zero i)
  | cons a l ih =>
    rw [List.flatMap_cons]
    cases i with
    | zero =>
      rw [List.getD_append _ _ _ _ (by rw [hk]; omega)]
      simp
    | succ i =>
      have hi' : i < l.length := by simpa using hi
      rw [List.getD_append_right _ _ _ _ (by rw [hk, Nat.mul_succ]; omega), hk,
        show k * (i + 1) + j - k = k * i + j by rw [Nat.mul_succ]; omega, ih hi']
      simp

/-- The same for pieces numbered from 0. -/
theorem getD_flatMap_range (f : Nat → List Byte) (k n : Nat) (hk : ∀ a, (f a).length = k) {i j : Nat} (hi : i < n)
    (hj : j < k) : ((List.range n).flatMap f).getD (k * i + j) 0 = (f i).getD j 0 := by
  rw [getD_flatMap f k hk _ (by simpa using hi) hj]
  simp

theorem getD_map_range (f : Nat → Byte) {n i : Nat} (hi : i < n) : ((List.range n).map f).getD i 0 = f i := by
  rw [List.getD_eq_getElem _ _ (by simpa using hi)]
  simp

theorem luminanceMap_getD (L : ConfigRegs) (m : Memory) {i : Nat} (hi : i < L.w * L.h) :
    (luminanceMap L m).getD i 0 = lumPixel L m i := getD_map_range _ hi

theorem colorBytes_getD (L : ConfigRegs) (m : Memory) {i j : Nat} (hi : i < L.w * L.h) (hj : j < 2) :
    (colorBytes L m).getD (2 * i + j) 0 = (colorPixel L m i).getD j 0 :=
  getD_flatMap_range _ 2 _ (fun _ => rfl) hi hj

theorem readBytes_getD (m : Memory) (base : Nat) {n i : Nat} (hi : i < n) :
    (readBytes m base n).getD i 0 = memRead m (base + i) := getD_map_range _ hi

theorem sourceBytes_getD (L : ConfigRegs) (m : Memory) {i : Nat} (hi : i < L.n) :
    (sourceBytes L m).getD i 0 = memRead m (L.srcBase.toNat + i) := readBytes_getD m _ hi

theorem hexTokens_getD (bs : List Byte) {i j : Nat} (hi : i < bs.length) (hj : j < 4) :
    (hexTokens bs).getD (4 * i + j) 0 = (token (bs.getD i 0)).getD j 0 := by
  rw [hexTokens, getD_flatMap token 4 token_length bs hi hj, List.getD_eq_getElem _ _ hi]

theorem previewText_getD (L : ConfigRegs) (m : Memory) {y j : Nat} (hy : y < L.h) (hj : j < L.w + 1) :
    (previewText L m).getD ((L.w + 1) * y + j) 0 =
      (((List.range L.w).map fun x => previewChar (mapByte L m x y)) ++ [charNewline]).getD j 0 :=
  getD_flatMap_range _ (L.w + 1) _ (fun _ => by simp) hy hj

/-- A character of a token in the display string. -/
theorem hexText_token_getD (B n : Nat) (bs : List Byte) {i j : Nat} (hi : i < bs.length) (hj : j < 4) :
    (hexText B n bs).getD (6 * i + j) 0 = (token (bs.getD i 0)).getD j 0 := by
  induction bs generalizing n i with
  | nil => exact absurd hi (Nat.not_lt_zero i)
  | cons v vs ih =>
    cases vs with
    | nil =>
      have : i = 0 := by simpa using hi
      subst this
      simp [hexText]
    | cons w ws =>
      rw [hexText]
      cases i with
      | zero =>
        rw [List.append_assoc, List.getD_append _ _ _ _ (by simp; omega)]
        simp
      | succ i =>
        have hi' : i < (w :: ws).length := by simpa using hi
        rw [List.getD_append_right _ _ _ _ (by simp; omega), List.length_append, token_length, separator_length,
          show 6 * (i + 1) + j - (4 + 2) = 6 * i + j by omega, ih (n + 1) hi']
        simp

/-- A character of a separator in the display string. -/
theorem hexText_separator_getD (B n : Nat) (bs : List Byte) {i j : Nat} (hi : i + 1 < bs.length) (hj : j < 2) :
    (hexText B n bs).getD (6 * i + 4 + j) 0 = (separator B (n + i)).getD j 0 := by
  induction bs generalizing n i with
  | nil => exact absurd hi (Nat.not_lt_zero _)
  | cons v vs ih =>
    cases vs with
    | nil => simp at hi
    | cons w ws =>
      rw [hexText]
      cases i with
      | zero =>
        rw [List.append_assoc, List.getD_append_right _ _ _ _ (by simp), token_length,
          List.getD_append _ _ _ _ (by simp; omega)]
        simp
      | succ i =>
        have hi' : i + 1 < (w :: ws).length := by simpa using hi
        rw [List.getD_append_right _ _ _ _ (by simp; omega), List.length_append, token_length, separator_length,
          show 6 * (i + 1) + 4 + j - (4 + 2) = 6 * i + 4 + j by omega, ih (n + 1) hi',
          show n + 1 + i = n + (i + 1) by omega]

/-! ### The packing loop -/

/-- The byte and the bit a pixel owns (42_bitmap_sampler.md R101, R104). -/
def ownedBit (L : ConfigRegs) (mode : Mode) (p : Nat × Nat) : Nat × Nat :=
  ((place mode p.1 p.2 L.w L.h).1, bitNumber L.reverse (place mode p.1 p.2 L.w L.h).2)

theorem mem_pixelCoords (W H : Nat) (p : Nat × Nat) : p ∈ pixelCoords W H ↔ p.1 < W ∧ p.2 < H := by
  obtain ⟨x, y⟩ := p
  simp only [pixelCoords, List.mem_flatMap, List.mem_map, List.mem_range, Prod.mk.injEq]
  constructor
  · rintro ⟨y', hy, x', hx, rfl, rfl⟩
    exact ⟨hx, hy⟩
  · rintro ⟨hx, hy⟩
    exact ⟨y, hy, x, hx, rfl, rfl⟩

theorem oneBit_getLsbD (k bit : Nat) (hbit : bit < 8) : (1#8 <<< k).getLsbD bit = decide (k = bit) := by
  simp only [BitVec.getLsbD_shiftLeft, hbit, decide_true, Bool.true_and]
  by_cases hk : bit < k
  · have : k ≠ bit := by omega
    simp [hk, this]
  · simp only [hk, decide_false, Bool.not_false, Bool.true_and]
    by_cases he : k = bit
    · simp [he]
    · have : bit - k ≠ 0 := by omega
      simp [he, BitVec.getLsbD_one, this]

/-- A bit after one pixel of the loop: it was set before, or the pixel owns it and has value 0 after polarity. -/
theorem packPixel_bit (L : ConfigRegs) (mode : Mode) (m : Memory) (out : List Byte) (p : Nat × Nat) {j bit : Nat}
    (hj : j < out.length) (hbit : bit < 8) :
    ((packPixel L mode m out p).getD j 0).getLsbD bit = true ↔
      (out.getD j 0).getLsbD bit = true ∨
      (ownedBit L mode p = (j, bit) ∧ pixelValue L.invert (mapByte L m p.1 p.2) = 0) := by
  unfold packPixel
  split
  · rename_i hv
    rw [List.getD_eq_getElem _ _ (by simpa using hj), List.getD_eq_getElem _ _ hj, List.getElem_modify]
    split
    · rename_i hp
      rw [BitVec.getLsbD_or, oneBit_getLsbD _ _ hbit, Bool.or_eq_true, decide_eq_true_eq]
      simp [ownedBit, hp, hv]
    · rename_i hp
      simp [ownedBit, hp]
  · rename_i hv
    exact ⟨.inl, fun h => h.elim id fun h => absurd h.2 hv⟩

/-- A bit after the loop over some pixels. -/
theorem packLoop_bit (L : ConfigRegs) (mode : Mode) (m : Memory) (ps : List (Nat × Nat)) (out : List Byte) {j bit : Nat}
    (hj : j < out.length) (hbit : bit < 8) :
    ((ps.foldl (packPixel L mode m) out).getD j 0).getLsbD bit = true ↔
      (out.getD j 0).getLsbD bit = true ∨
      ∃ p ∈ ps, ownedBit L mode p = (j, bit) ∧ pixelValue L.invert (mapByte L m p.1 p.2) = 0 := by
  induction ps generalizing out with
  | nil => simp
  | cons p ps ih =>
    rw [List.foldl_cons, ih _ (by rwa [packPixel_length]), packPixel_bit L mode m out p hj hbit]
    simp [or_assoc]

/-- A bit of the packed bytes is 1 exactly when a pixel owns it and has value 0 after polarity
(42_bitmap_sampler.md R105). -/
theorem packBytes_bit (L : ConfigRegs) (mode : Mode) (m : Memory) {j bit : Nat} (hj : j < mode.packedSize L.w L.h)
    (hbit : bit < 8) :
    ((packBytes L mode m).getD j 0).getLsbD bit = true ↔
      ∃ x y, x < L.w ∧ y < L.h ∧ ownedBit L mode (x, y) = (j, bit) ∧
        pixelValue L.invert (mapByte L m x y) = 0 := by
  rw [packBytes, packLoop_bit L mode m _ _ (by simpa using hj) hbit]
  constructor
  · rintro (h | ⟨p, hp, h⟩)
    · simp at h
    · obtain ⟨hx, hy⟩ := (mem_pixelCoords _ _ _).1 hp
      exact ⟨p.1, p.2, hx, hy, h⟩
  · rintro ⟨x, y, hx, hy, h⟩
    exact .inr ⟨(x, y), (mem_pixelCoords _ _ _).2 ⟨hx, hy⟩, h⟩

end Sys2Proof.Machine
end

