-- ==== Sys2Proof/Laws/PerInstr.lean ====
section
/-! SUPPORT. Statements made per instruction: the family Encoding, about an instruction as syntax. -/

namespace Sys2Proof.Laws

/-- The instruction is well-formed, its command word selects a command, and reading its table row gives it back. -/
def Encoding.Statement (i : Instr) : Prop :=
  Instr.wf i = true ∧ CommandWord.wf (encode i) = true ∧ decodeTableWord 32 (encode i).toNat = some i

theorem Encoding.binarize : Encoding.Statement .binarize := ⟨rfl, rfl, rfl⟩
theorem Encoding.packColor : Encoding.Statement .packColor := ⟨rfl, rfl, rfl⟩
theorem Encoding.pack : Encoding.Statement .pack := ⟨rfl, rfl, rfl⟩
theorem Encoding.formatRaw : Encoding.Statement .formatRaw := ⟨rfl, rfl, rfl⟩
theorem Encoding.formatHex : Encoding.Statement .formatHex := ⟨rfl, rfl, rfl⟩
theorem Encoding.formatHexText : Encoding.Statement .formatHexText := ⟨rfl, rfl, rfl⟩
theorem Encoding.size : Encoding.Statement .size := ⟨rfl, rfl, rfl⟩
theorem Encoding.preview : Encoding.Statement .preview := ⟨rfl, rfl, rfl⟩
theorem Encoding.generate : Encoding.Statement .generate := ⟨rfl, rfl, rfl⟩

end Sys2Proof.Laws
end

