-- ==== Sys2Proof/Laws/Step.lean ====
section
/-! SUPPORT. What a step can do, said once: an inversion lemma for the step, for the host's turn and for a host operation. -/

namespace Sys2Proof.Machine

/-- Everything a host operation that goes on can do to the machine. -/
inductive HostChange (s : State) : State → Prop where
  /-- a read, or a poll of WAIT: the host has a value, and perhaps a free value was drawn or the WAIT put back -/
  | replied (n : Nat) (todo : List HostOp) (v : Word) :
      HostChange s (reply { s with draws := n, host := { s.host with todo := todo } } v)
  /-- an access that is not the block's, or a write that is ignored -/
  | nothing : HostChange s s
  | busError : HostChange s (recordBusError s)
  | accepted (w : Word) (h : s.status.busy = false) : HostChange s (accept s w)
  | dropped (h : s.status.busy = true) : HostChange s (drop s)
  | configured (r : Reg) (v : Word) : HostChange s { s with cfg := writeConfigReg s.cfg r v }
  | stored (a : Nat) (v : Byte) (hb : a < s.params.memBytes) (ha : inAnyRegion s a = false) :
      HostChange s { s with buf := memWrite s.buf a v }
  | hazard (a : Nat) (hb : a < s.params.memBytes) (ha : inAnyRegion s a = true) : HostChange s (recordHazard s a)
  | wasReset : HostChange s (resetBlock s)

theorem bufAccess_wf_iff (n a width : Nat) : BufAccess.wf n a width = true ↔ width = 8 ∧ a < n := by
  simp [BufAccess.wf]

theorem regAccess_wf_iff (o : BitVec 8) (width : Nat) :
    RegAccess.wf o width = true ↔ width = 32 ∧ o.toNat % 4 = 0 := by
  simp [RegAccess.wf]

theorem writeReg_change (s : State) (r : Reg) (v : Word) : HostChange s (writeReg s r v) := by
  cases r
  case cmd =>
    simp only [writeReg, writeCmd]
    split
    · exact .dropped ‹_›
    · rename_i h
      exact .accepted v (by simpa using h)
  all_goals exact .configured _ v

theorem regAccess_change (s : State) (o : BitVec 8) (width : Nat) (d : Option Word) :
    HostChange s (regAccess s o width d) := by
  cases d with
  | none =>
    simp only [regAccess, regRead]
    split
    · exact .replied s.draws s.host.todo _
    · exact .busError
  | some v =>
    simp only [regAccess, regWrite]
    split
    · unfold writeOffset
      split
      · exact writeReg_change s _ v
      · exact .nothing
    · exact .busError

theorem bufAccess_change (s : State) (a width : Nat) (d : Option Word) : HostChange s (bufAccess s a width d) := by
  cases d with
  | none =>
    simp only [bufAccess, bufRead]
    split
    · split
      · exact .replied (s.draws + 1) s.host.todo _
      · exact .replied s.draws s.host.todo _
    · exact .busError
  | some v =>
    simp only [bufAccess, bufWrite]
    split
    · rename_i hw
      have hb := ((bufAccess_wf_iff _ _ _).1 hw).2
      split
      · exact .hazard a hb ‹_›
      · rename_i ha
        exact .stored a _ hb (by simpa using ha)
    · exact .busError

/-- A host operation that goes on made one of the changes above. -/
theorem hostPerform_change {op : HostOp} {s t : State} (h : hostPerform op s = .next t) : HostChange s t := by
  cases op with
  | readReg o w => cases h; exact regAccess_change s o w none
  | writeReg o w v => cases h; exact regAccess_change s o w (some v)
  | readBuf a w => cases h; exact bufAccess_change s a w none
  | writeBuf a w v => cases h; exact bufAccess_change s a w (some v)
  | bus a w d =>
    simp only [hostPerform, busAccess] at h
    split at h
    · split at h
      · cases h
      · cases h; exact regAccess_change s _ w d
    · split at h
      · cases h; exact bufAccess_change s _ w d
      · cases h; exact .nothing
  | waitDone =>
    cases h
    simp only [waitPoll]
    split
    · exact .replied s.draws s.host.todo _
    · exact .replied s.draws _ _
  | reset => cases h; exact .wasReset

/-- The host's turn: nothing left to do, or its next operation. -/
theorem hostTurn_cases {s t : State} (h : hostTurn s = .next t) :
    (s.host.todo = [] ∧ t = tick s) ∨
    (∃ op rest, s.host.todo = op :: rest ∧ hostPerform op (tick (issued s rest)) = .next t) := by
  unfold hostTurn at h
  split at h
  · cases h; exact .inl ⟨‹_›, rfl⟩
  · exact .inr ⟨_, _, ‹_›, h⟩

theorem stickyFault_none_iff (s : State) : stickyFault s = none ↔ FaultFree s := by
  unfold stickyFault FaultFree
  cases s.faults.busError <;> cases s.faults.hazard <;> simp

theorem dueCommand_some {s : State} {c : Inflight} (h : dueCommand s = some c) :
    s.inflight = some c ∧ c.delay = 0 := by
  unfold dueCommand at h
  split at h
  · split at h
    · rename_i hd; cases h; exact ⟨‹_›, hd⟩
    · cases h
  · cases h

theorem dueCommand_of {s : State} {c : Inflight} (h : s.inflight = some c) (hd : c.delay = 0) :
    dueCommand s = some c := by
  simp [dueCommand, h, hd]

/-- Everything a step that goes on can be: the completion of a due command, the failure of a due word that is no command, or
the host's turn. -/
theorem step_cases {s t : State} (h : step s = .next t) :
    FaultFree s ∧
    ((∃ c i, s.inflight = some c ∧ c.delay = 0 ∧ decodeWord c.word = .ok i ∧ exec i s = .next t) ∨
     (∃ c e, s.inflight = some c ∧ c.delay = 0 ∧ decodeWord c.word = .error e ∧ t = completeBadCommand s e) ∨
     (dueCommand s = none ∧ hostTurn s = .next t)) := by
  unfold step at h
  split at h
  · cases h
  · refine ⟨(stickyFault_none_iff s).1 ‹_›, ?_⟩
    split at h
    · rename_i c hc
      obtain ⟨h1, h2⟩ := dueCommand_some hc
      unfold complete at h
      split at h
      · exact .inl ⟨c, _, h1, h2, ‹_›, h⟩
      · cases h; exact .inr (.inl ⟨c, _, h1, h2, ‹_›, rfl⟩)
    · exact .inr (.inr ⟨‹_›, h⟩)

/-- A run of the machine behind the host's interface goes on from a next state. -/
theorem core_run_next {s t : State} (k : Nat) (h : step s = .next t) : core.run (k + 1) s = core.run k t := by
  have h' : core.step s = .next t := h
  simp only [Host.Core.run, h']

/-- One step of a run. -/
theorem core_run_one (s : State) : core.run 1 s = step s := by
  cases h : step s with
  | next t => exact core_run_next 0 h
  | fault r =>
    have h' : core.step s = .fault r := h
    simp only [Host.Core.run, h']
    rfl
  | refused r =>
    have h' : core.step s = .refused r := h
    simp only [Host.Core.run, h']
    rfl

/-- The addresses a reset draws lie in BUF. -/
theorem resetCells_addr {n d : Nat} {rs : List Region} {c : Host.Cell} (h : c ∈ resetCells n d rs) :
    c.1 < n ∧ anyContains rs c.1 = true ∧ c.2 = Config.resetByte d c.1 := by
  simp only [resetCells, regionAddrs, List.mem_flatMap, List.mem_map, List.mem_range] at h
  obtain ⟨r, hr, a, ⟨i, hi, rfl⟩, rfl⟩ := h
  refine ⟨by omega, ?_, rfl⟩
  exact List.any_eq_true.2 ⟨r, hr, (contains_iff _ _).2 ⟨by omega, by omega⟩⟩

end Sys2Proof.Machine
end

