-- ==== Sys2Proof/Tests/Slice0.lean ====
section
/-! SUPPORT. The model's own tests: ill-formed terms refused, command words written out bit by bit, the vectors of
95_test_vectors.md on small states, and a witness for every statement that has hypotheses. -/

namespace Sys2Proof.Tests

open Sys2Proof Sys2Proof.Machine

/-! ### Helpers -/

/-- The registers of 95_test_vectors.md section 0. -/
def vectorCfg : ConfigRegs :=
  { config := 0, width := 8, height := 1, threshold := 0, lineBreak := 16, pixBase := 0, pixLen := 32, lmapBase := 0x100,
    outBase := 0x200, srcBase := 0x200, srcLen := 1, txtBase := 0x300 }

/-- A state with MEM_BYTES = 4096, the given registers and the given bytes of BUF; no command in flight. -/
def start (cfg : ConfigRegs) (cells : List Host.Cell) : State :=
  { State.reset with
    params := { memBytes := 4096, regBase := 0x10000, bufBase := 0x20000 }, cfg := cfg, buf := memWriteAll [] cells }

/-- The map of X1 at 0x100. -/
def mapX1 : List Host.Cell := layOut 0x100 [1, 0, 1, 0, 1, 0, 1, 0]

/-- The pixels of program P1 at 0x000. -/
def pixelsP1 : List Host.Cell :=
  layOut 0 ([0xFF, 0xFF, 0xFF, 0xFF, 0, 0, 0, 0xFF, 0xFF, 0xFF, 0xFF, 0xFF, 0, 0, 0, 0xFF] ++
    [0xFF, 0xFF, 0xFF, 0xFF, 0, 0, 0, 0xFF, 0xFF, 0xFF, 0xFF, 0xFF, 0, 0, 0, 0xFF])

/-- The registers with one pixel of 4 bytes. -/
def onePixel : ConfigRegs := { vectorCfg with width := 1, pixLen := 4 }

/-- The state an outcome goes on with. -/
def stateOf (o : Host.Outcome State Fault Refusal) : Option State :=
  match o with
  | .next s => some s
  | .fault _ => none
  | .refused _ => none

/-- The n bytes from an address, after. -/
def bytesAfter (o : Host.Outcome State Fault Refusal) (base n : Nat) : Option (List Byte) :=
  (stateOf o).map fun s => readBytes s.buf base n

/-- A register, after. -/
def regAfter (o : Host.Outcome State Fault Refusal) (r : Reg) : Option Word := (stateOf o).map fun s => readReg s r

/-- The command ended without an error. -/
def endsWell (o : Host.Outcome State Fault Refusal) : Bool :=
  match o with
  | .next s => !s.status.err
  | .fault _ => false
  | .refused _ => false

theorem endsWell_next {o : Host.Outcome State Fault Refusal} (h : endsWell o = true) :
    ∃ t, o = .next t ∧ t.status.err = false := by
  cases o with
  | next s => exact ⟨s, rfl, by simpa [endsWell] using h⟩
  | fault f => cases h
  | refused r => cases h

/-- PACK of X1's map, accepted, its completion due after some delay. -/
def packing (delay : Nat) : State :=
  { start vectorCfg mapX1 with
    cmd := 3, status := Status.accepted, inflight := some { word := 3, latch := vectorCfg, delay := delay } }

/-! ### Ill-formed terms -/

theorem test_wf_reserved_bits : CommandWord.wf 0x00000013 = false := by decide
theorem test_wf_opcode_zero : CommandWord.wf 0x00000000 = false := by decide
theorem test_wf_opcode_ten : CommandWord.wf 0x0000000A = false := by decide
theorem test_wf_opcode_nine : CommandWord.wf 0x00000009 = true := by decide
theorem test_wf_reg_width : RegAccess.wf 0x08 8 = false := by decide
theorem test_wf_reg_misaligned : RegAccess.wf 0x0A 32 = false := by decide
theorem test_wf_buf_width : BufAccess.wf 4096 0 32 = false := by decide
theorem test_wf_buf_bounds : BufAccess.wf 4096 4096 8 = false := by decide
theorem test_wf_no_memory : MemBytes.wf 0 = false := by decide
theorem test_wf_too_much_memory : MemBytes.wf (2 ^ 32 + 1) = false := by decide
theorem test_wf_commands : ∀ i ∈ [Instr.binarize, .packColor, .pack, .formatRaw, .formatHex, .formatHexText, .size, .preview,
    .generate], Instr.wf i = true := by decide

/-! ### Words written out bit by bit: 28 reserved bits, then the opcode of 30_encoding.md R71 -/

theorem test_decode_binarize : decodeWord 0b0000_0000_0000_0000_0000_0000_0000_0001 = .ok .binarize := by decide
theorem test_decode_packColor : decodeWord 0b0000_0000_0000_0000_0000_0000_0000_0010 = .ok .packColor := by decide
theorem test_decode_pack : decodeWord 0b0000_0000_0000_0000_0000_0000_0000_0011 = .ok .pack := by decide
theorem test_decode_formatRaw : decodeWord 0b0000_0000_0000_0000_0000_0000_0000_0100 = .ok .formatRaw := by decide
theorem test_decode_formatHex : decodeWord 0b0000_0000_0000_0000_0000_0000_0000_0101 = .ok .formatHex := by decide
theorem test_decode_formatHexText : decodeWord 0b0000_0000_0000_0000_0000_0000_0000_0110 = .ok .formatHexText := by decide
theorem test_decode_size : decodeWord 0b0000_0000_0000_0000_0000_0000_0000_0111 = .ok .size := by decide
theorem test_decode_preview : decodeWord 0b0000_0000_0000_0000_0000_0000_0000_1000 = .ok .preview := by decide
theorem test_decode_generate : decodeWord 0b0000_0000_0000_0000_0000_0000_0000_1001 = .ok .generate := by decide
/-- 95_test_vectors.md section 2: bits 31:4 come before the opcode. -/
theorem test_decode_reserved :
    [decodeWord 0x00000000, decodeWord 0x0000000A, decodeWord 0x0000000F, decodeWord 0x00000013, decodeWord 0x000000F0,
      decodeWord 0x80000003] =
    [.error .reservedOpcode, .error .reservedOpcode, .error .reservedOpcode, .error .reservedBits, .error .reservedBits,
      .error .reservedBits] := by decide
theorem test_table_word : decodeTableWord 32 9 = some .generate := by decide
theorem test_table_word_refused : decodeTableWord 32 10 = none := by decide

/-! ### Commands: expected values from 95_test_vectors.md -/

/-- Section 3: (1, 113, 205) at T = 90 has luminance exactly 90, so 0; at T = 89 it is 1. -/
theorem test_binarize_exact :
    (bytesAfter (exec .binarize (start { onePixel with threshold := 90 } (layOut 0 [1, 113, 205, 255]))) 0x100 1,
      bytesAfter (exec .binarize (start { onePixel with threshold := 89 } (layOut 0 [1, 113, 205, 255]))) 0x100 1) =
    (some [0], some [1]) := by decide

/-- Section 3: PIX_LEN = 31. -/
theorem test_binarize_length : regAfter (exec .binarize (start { vectorCfg with pixLen := 31 } [])) .status = some 0x316 := by
  decide

/-- Section 5: (8, 4, 8) packs to 08 21, inverted F7 DE. -/
theorem test_packColor_low_bits :
    (bytesAfter (exec .packColor (start onePixel (layOut 0 [8, 4, 8, 0]))) 0x200 2,
      bytesAfter (exec .packColor (start { onePixel with config := 1 } (layOut 0 [8, 4, 8, 0]))) 0x200 2) =
    (some [0x08, 0x21], some [0xF7, 0xDE]) := by decide

/-- X2, and its metadata. -/
theorem test_packColor_red :
    bytesAfter (exec .packColor (start onePixel (layOut 0 [0xFF, 0, 0, 0xFF]))) 0x200 2 = some [0xF8, 0x00] ∧
    regAfter (exec .packColor (start onePixel (layOut 0 [0xFF, 0, 0, 0xFF]))) .resInfo = some 8 := by decide

/-- X1, and with REVERSE set (section 4.2). -/
theorem test_pack_x1 :
    (bytesAfter (exec .pack (start vectorCfg mapX1)) 0x200 1,
      bytesAfter (exec .pack (start { vectorCfg with config := 2 } mapX1)) 0x200 1) = (some [0x55], some [0xAA]) := by decide

/-- Section 4.4: the 2×9 map in COLROW with REVERSE and INVERT. -/
theorem test_pack_colRow_bands :
    bytesAfter (exec .pack (start { vectorCfg with config := 0x23, width := 2, height := 9 }
      (layOut 0x100 [1, 1, 0, 1, 1, 1, 0, 1, 1, 1, 0, 1, 1, 1, 0, 1, 0, 1]))) 0x200 4 =
    some [0x55, 0xFF, 0x00, 0x01] := by decide

/-- Section 6: FORMAT_RAW of 0A FF 01. -/
theorem test_formatRaw_copies :
    bytesAfter (exec .formatRaw (start { vectorCfg with srcLen := 3 } (layOut 0x200 [0x0A, 0xFF, 0x01]))) 0x300 3 =
    some [0x0A, 0xFF, 0x01] := by decide

/-- Section 6: SRC_LEN = 0 with both bases at 0xFFFFFFFF succeeds. -/
theorem test_formatRaw_empty :
    regAfter (exec .formatRaw (start { vectorCfg with srcLen := 0, srcBase := 0xFFFFFFFF, txtBase := 0xFFFFFFFF } []))
      .status = some 2 := by decide

/-- X4. -/
theorem test_formatHex_x4 :
    bytesAfter (exec .formatHex (start { vectorCfg with srcLen := 3 } (layOut 0x200 [0x0A, 0xFF, 0x01]))) 0x300 12 =
    some [0x30, 0x78, 0x30, 0x61, 0x30, 0x78, 0x66, 0x66, 0x30, 0x78, 0x30, 0x31] := by decide

/-- Section 6: TXT_BASE = 0xFFD. -/
theorem test_formatHex_bounds :
    regAfter (exec .formatHex (start { vectorCfg with txtBase := 0xFFD } [])) .status = some 0x536 := by decide

/-- Section 7: 0A FF 01 with LINE_BREAK = 2. -/
theorem test_formatHexText_break :
    bytesAfter (exec .formatHexText (start { vectorCfg with srcLen := 3, lineBreak := 2 } (layOut 0x200 [0x0A, 0xFF, 0x01])))
      0x300 16 =
    some [0x30, 0x78, 0x30, 0x61, 0x2C, 0x20, 0x30, 0x78, 0x66, 0x66, 0x2C, 0x0A, 0x30, 0x78, 0x30, 0x31] := by decide

/-- Section 7: SRC 0x300 of 2 bytes inside TXT 0x2FE. -/
theorem test_formatHexText_overlap :
    regAfter (exec .formatHexText (start { vectorCfg with srcBase := 0x300, srcLen := 2, txtBase := 0x2FE } [])) .status =
    some 0x636 := by decide

/-- X5. -/
theorem test_size_x5 : regAfter (exec .size (start { vectorCfg with srcLen := 2048 } [])) .resSize = some 0x800 := by decide

/-- Section 9: the 3×2 map. -/
theorem test_preview_lines :
    bytesAfter (exec .preview (start { vectorCfg with width := 3, height := 2 } (layOut 0x100 [0, 1, 1, 1, 0, 0]))) 0x300 8 =
    some [0x30, 0x31, 0x31, 0x0A, 0x31, 0x30, 0x30, 0x0A] := by decide

/-- Section 9: a map byte 0xFF. -/
theorem test_preview_map_value :
    regAfter (exec .preview (start vectorCfg (layOut 0x100 [1, 0, 0xFF, 0, 1, 0, 1, 0]))) .status = some 0x416 := by decide

/-- Program P1: OUT is 55 and TXT is "0x55". -/
theorem test_generate_p1 :
    (bytesAfter (exec .generate (start { vectorCfg with config := 4, threshold := 127 } pixelsP1)) 0x200 1,
      bytesAfter (exec .generate (start { vectorCfg with config := 4, threshold := 127 } pixelsP1)) 0x300 4) =
    (some [0x55], some [0x30, 0x78, 0x35, 0x35]) := by decide

/-- Program P2: red and white, inverted, in colour. -/
theorem test_generate_p2 :
    bytesAfter (exec .generate (start { vectorCfg with config := 9, width := 2, pixLen := 8 }
      (layOut 0 [0xFF, 0, 0, 0xFF, 0xFF, 0xFF, 0xFF, 0xFF]))) 0x300 4 = some [0x07, 0xFF, 0x00, 0x00] := by decide

/-! ### The step -/

/-- The first step after reset with SIZE placed: RES_SIZE <- 0 and STATUS 0x2. -/
theorem test_first_step_size : regAfter (step (State.reset.withFetchWord 32 7)) .status = some 0x00000002 := by decide

/-- The first step after reset with PACK placed: W = 0 is INVALID_INPUT 0x01. -/
theorem test_first_step_pack : regAfter (step (State.reset.withFetchWord 32 3)) .status = some 0x00000116 := by decide

/-- Section 2: word 0x13 ends in BAD_COMMAND 0x02. -/
theorem test_first_step_reserved : regAfter (step (State.reset.withFetchWord 32 0x13)) .status = some 0x00000246 := by decide

/-- A WB line at the last 32-bit address, a CFG line and a WAIT, expanded (30_encoding.md R78, R79; the word of CFG is that
of program P2): no address wraps. -/
theorem test_script :
    expandScript [.wb 0xFFFFFFFF [1, 2], .cfg true false false true 0, .wait] =
      [.writeBuf 0xFFFFFFFF 8 1, .writeBuf 0x100000000 8 2, .writeReg 0x08 32 0x00000009, .waitDone] := by decide

/-! ### Witnesses: concrete data that meet all the hypotheses of a statement together, one for each clause -/

/-- An accepted word, its completion due. -/
def placed (w : Word) : State := { packing 0 with cmd := w, inflight := some { word := w, latch := vectorCfg, delay := 0 } }

/-- CommandWordsAreCheckedFirst, first clause: the least and the greatest nonzero reserved field. -/
theorem test_met_reserved_bits :
    (placed 0x00000010).inflight = some { word := 0x00000010, latch := vectorCfg, delay := 0 } ∧
    (0x00000010 : Word).extractLsb' 4 28 ≠ 0 ∧
    (placed 0xFFFFFFF3).inflight = some { word := 0xFFFFFFF3, latch := vectorCfg, delay := 0 } ∧
    (0xFFFFFFF3 : Word).extractLsb' 4 28 ≠ 0 := by decide

/-- CommandWordsAreCheckedFirst, second clause: opcodes 0, 10 and 15. -/
theorem test_met_reserved_opcode :
    ∀ k ∈ [0x0, 0xA, 0xF],
      (placed (BitVec.ofNat 32 k)).inflight = some { word := BitVec.ofNat 32 k, latch := vectorCfg, delay := 0 } ∧
      (BitVec.ofNat 32 k).extractLsb' 4 28 = 0 ∧
      (((BitVec.ofNat 32 k).extractLsb' 0 4).toNat = 0 ∨ 10 ≤ ((BitVec.ofNat 32 k).extractLsb' 0 4).toNat) := by decide

/-- CommandWordsAreCheckedFirst, third clause: opcodes 1 and 9. -/
theorem test_met_command_word :
    ∀ k ∈ [0x1, 0x9],
      (placed (BitVec.ofNat 32 k)).inflight = some { word := BitVec.ofNat 32 k, latch := vectorCfg, delay := 0 } ∧
      (BitVec.ofNat 32 k).extractLsb' 4 28 = 0 ∧ 1 ≤ ((BitVec.ofNat 32 k).extractLsb' 0 4).toNat ∧
      ((BitVec.ofNat 32 k).extractLsb' 0 4).toNat ≤ 9 := by decide

/-- StepRunsTheDecodedCommand. -/
theorem test_met_step_runs :
    FaultFree (packing 0) ∧ (packing 0).inflight = some { word := 3, latch := vectorCfg, delay := 0 } ∧
      decodeWord 3 = .ok .pack := ⟨⟨rfl, rfl⟩, rfl, rfl⟩

/-- StepElseRunsTheHost, with a command in flight and with none. -/
theorem test_met_step_else :
    (FaultFree { packing 1 with host := { todo := [.waitDone], replies := [] } } ∧
      ∀ c, { packing 1 with host := { todo := [.waitDone], replies := [] } }.inflight = some c → c.delay ≠ 0) ∧
    (FaultFree { start vectorCfg [] with host := { todo := [.reset], replies := [] } } ∧
      ∀ c, { start vectorCfg [] with host := { todo := [.reset], replies := [] } }.inflight = some c → c.delay ≠ 0) := by
  refine ⟨⟨⟨rfl, rfl⟩, ?_⟩, ⟨rfl, rfl⟩, ?_⟩
  · intro c h
    cases h
    decide
  · intro c h
    cases h

/-- IdleHoldsAllState. -/
theorem test_met_idle : FaultFree State.reset ∧ State.reset.inflight = none ∧ State.reset.host.todo = [] :=
  ⟨⟨rfl, rfl⟩, rfl, rfl⟩

/-- AcceptedCommandCompletes, after a delay of 2 and of 0. -/
theorem test_met_accepted :
    ∀ d ∈ [0, 2], FaultFree (packing d) ∧ (packing d).inflight = some { word := 3, latch := vectorCfg, delay := d } ∧
      (packing d).host.todo = [] ∧ decodeWord 3 = .ok .pack := fun _ _ => ⟨⟨rfl, rfl⟩, rfl, rfl, rfl⟩

/-- IdleCmdWriteAccepts, with a word that is no command too, and BusyCmdWriteIsDropped. -/
theorem test_met_cmd_write : State.reset.status.busy = false ∧ (∀ i ∈ [Instr.binarize, .packColor, .pack, .formatRaw,
    .formatHex, .formatHexText, .size, .preview, .generate], (0xA : Word) ≠ encode i) ∧ (packing 1).status.busy = true := by
  decide

/-- InflightCommandReadsOnlyTheLatch. -/
theorem test_met_latch : (packing 0).inflight = some { word := 3, latch := vectorCfg, delay := 0 } := rfl

/-- RegisterAccessRules: registers of both lists. -/
theorem test_met_configuration : ∀ r ∈ [Reg.config, .threshold, .txtBase],
    r ∈ [Reg.config, .width, .height, .threshold, .lineBreak, .pixBase, .pixLen, .lmapBase, .outBase, .srcBase, .srcLen,
      .txtBase] := by decide

theorem test_met_read_only : ∀ r ∈ [Reg.status, .resSize],
    r ∈ [Reg.status, .resBytes, .resBytesPerPage, .resPageCount, .resWidth, .resHeight, .resInfo, .resTxtLen, .resSize] := by
  decide

/-- ReadOnlyAndUnlistedOffsets: both clauses at their bounds. -/
theorem test_met_offsets :
    (∀ k ∈ [0x04, 0x38, 0x54], (BitVec.ofNat 8 k).toNat % 4 = 0 ∧
      ((BitVec.ofNat 8 k).toNat = 0x04 ∨ (0x38 ≤ (BitVec.ofNat 8 k).toNat ∧ (BitVec.ofNat 8 k).toNat ≤ 0x54))) ∧
    (∀ k ∈ [0x58, 0xFC], (BitVec.ofNat 8 k).toNat % 4 = 0 ∧ 0x58 ≤ (BitVec.ofNat 8 k).toNat) := by decide

/-- WaitPollsUntilDone. -/
theorem test_met_wait :
    { start vectorCfg [] with status := { Status.atReset with done := true } }.status.done = true ∧
    (packing 1).status.done = false := by decide

/-- HostByteAccess, the write: an idle block at both ends of BUF; and beside the regions of a PACK in flight. -/
theorem test_met_byte_write :
    (∀ k ∈ [0, 4095], k < (start vectorCfg []).params.memBytes ∧
      inAnyRegion (start vectorCfg []) k = false) ∧
    (∀ k ∈ [0xFF, 0x108, 0x1FF, 0x201], k < (packing 1).params.memBytes ∧
      inAnyRegion (packing 1) k = false) := by decide

/-- HostByteAccess, the read: beside the write region of a PACK in flight and in its read region; and
BusyReadsAreFreeValues: inside the write region. -/
theorem test_met_byte_read :
    (∀ k ∈ [0x100, 0x1FF, 0x201], k < (packing 1).params.memBytes ∧
      inWriteRegion (packing 1) k = false) ∧
    (0x200 < (packing 1).params.memBytes ∧ inWriteRegion (packing 1) 0x200 = true) := by decide

/-- HazardWriteStopsTheRun: the ends of the read region and the write region. -/
theorem test_met_hazard : ∀ k ∈ [0x100, 0x107, 0x200],
    k < (packing 1).params.memBytes ∧ inAnyRegion (packing 1) k = true := by
  decide

/-- BusErrorsChangeNothing: each of the four bus errors. -/
theorem test_met_bus_errors :
    ((8 ≠ 32 ∨ (0x08 : BitVec 8).toNat % 4 ≠ 0) ∧ HostOp.readReg 0x08 8 = .readReg 0x08 8) ∧
    ((32 ≠ 32 ∨ (0x0A : BitVec 8).toNat % 4 ≠ 0) ∧ HostOp.writeReg 0x0A 32 1 = .writeReg 0x0A 32 1) ∧
    ((32 ≠ 8 ∨ (start vectorCfg []).params.memBytes ≤ 0) ∧ HostOp.readBuf 0 32 = .readBuf 0 32) ∧
    ((8 ≠ 8 ∨ (start vectorCfg []).params.memBytes ≤ 4096) ∧
      HostOp.writeBuf 4096 8 1 = .writeBuf 4096 8 1) := by decide

/-- RecordedFaultsAreSticky: a reset after both faults, a command, and a step. -/
theorem test_met_sticky :
    (∃ t, hostPerform .reset { packing 1 with faults := { busError := true, hazard := true } } = .next t) ∧
    (∃ t, exec .pack (packing 0) = .next t) ∧ (∃ t, step (packing 1) = .next t) ∧
    ¬FaultFree { packing 1 with faults := { busError := false, hazard := true } } :=
  ⟨⟨_, rfl⟩, ⟨_, rfl⟩, ⟨_, rfl⟩, fun h => nomatch h.2⟩

/-- BusAddressesReachTheWindows: both windows at both ends. -/
theorem test_met_bus_addresses :
    (∀ x ∈ [0, 255], x < 256 ∧ ¬((start vectorCfg []).params.bufBase ≤ (start vectorCfg []).params.regBase + x ∧
      (start vectorCfg []).params.regBase + x < (start vectorCfg []).params.bufBase + (start vectorCfg []).params.memBytes)) ∧
    (∀ x ∈ [0, 4095], x < (start vectorCfg []).params.memBytes ∧
      ¬((start vectorCfg []).params.regBase ≤ (start vectorCfg []).params.bufBase + x ∧
        (start vectorCfg []).params.bufBase + x < (start vectorCfg []).params.regBase + 256)) := by decide

/-- ResetInput, the clauses about BUF: bytes outside and inside the write region of a PACK in flight. -/
theorem test_met_reset : inWriteRegion (packing 1) 0x1FF = false ∧ inWriteRegion (packing 1) 0x201 = false ∧
    inWriteRegion (packing 1) 0x200 = true ∧ 0x200 < (packing 1).params.memBytes := by decide

/-- ErrorCompletionChangesNothing. -/
theorem test_met_error : ∃ t, exec .pack (start { vectorCfg with config := 0x40 } mapX1) = .next t ∧ t.status.err = true :=
  ⟨_, rfl, rfl⟩

/-- CommandsLeaveOtherRegisters and CommandsLeaveOtherResults: every command answers a next state. -/
theorem test_met_frames : ∀ i : Instr, ∃ t, exec i (start vectorCfg mapX1) = .next t := by
  intro i
  rw [exec_eq]
  cases commandResult i (start vectorCfg mapX1).params.memBytes (start vectorCfg mapX1).latched (start vectorCfg mapX1).buf
  · exact ⟨_, rfl⟩
  · exact ⟨_, rfl⟩

/-- CommandsLeaveOtherBytes: the bytes beside PACK's output; every byte for SIZE. -/
theorem test_met_outside :
    (∀ a ∈ [0x1FF, 0x201], anyContains (writeRegions .pack (start vectorCfg mapX1).latched) a = false) ∧
    anyContains (writeRegions .size (start vectorCfg mapX1).latched) 0x200 = false := by decide

/-- ResultDependsOnlyOnLatchAndReadRegions: two states that differ outside the map, in STATUS and in CMD. -/
theorem test_met_depends :
    (packing 0).latched = (start vectorCfg mapX1).latched ∧ (packing 0).params = (start vectorCfg mapX1).params ∧
    (packing 0).res = (start vectorCfg mapX1).res ∧
    (∀ a, anyContains (readRegions .pack (start vectorCfg mapX1).latched) a = true →
      memRead (memWrite (packing 0).buf 0x200 7) a = memRead (start vectorCfg mapX1).buf a) ∧
    endsWell (exec .pack (start vectorCfg mapX1)) = true ∧
    endsWell (exec .pack { packing 0 with buf := memWrite (packing 0).buf 0x200 7 }) = true := by
  refine ⟨rfl, rfl, rfl, ?_, by decide, by decide⟩
  intro a h
  rw [memRead_memWrite_other]
  · rfl
  · rintro rfl
    revert h
    decide

/-- BinarizeComputesTheMap: LMAP just after PIX, and LMAP ending at the last byte. -/
theorem test_met_binarize : ∀ base ∈ [0x020, 0xFF8],
    let s := start { vectorCfg with lmapBase := BitVec.ofNat 32 base } pixelsP1
    s.latched.w ≠ 0 ∧ s.latched.h ≠ 0 ∧ s.latched.pixLen.toNat = 4 * s.latched.w * s.latched.h ∧
      s.latched.pixRegion.inBounds s.params.memBytes = true ∧ s.latched.lmapRegion.inBounds s.params.memBytes = true ∧
      s.latched.pixRegion.overlaps s.latched.lmapRegion = false := by decide

/-- BinarizeIgnoresAlpha: the same pixel with two alpha bytes. -/
theorem test_met_alpha : ∀ i k, i < onePixel.w * onePixel.h → k < 3 →
    memRead (layOut 0 [200, 100, 50, 255]) (onePixel.pixBase.toNat + 4 * i + k) =
      memRead (layOut 0 [200, 100, 50, 0]) (onePixel.pixBase.toNat + 4 * i + k) := by
  intro i k hi hk
  have hi : i = 0 := by simpa [onePixel, vectorCfg, ConfigRegs.w, ConfigRegs.h] using hi
  subst hi
  revert k
  decide

/-- PackColorWritesRgb565, with an unrecognized MODE. -/
theorem test_met_packColor :
    let s := start { vectorCfg with config := 0x70 } pixelsP1
    s.latched.w ≠ 0 ∧ s.latched.h ≠ 0 ∧ s.latched.pixLen.toNat = 4 * s.latched.w * s.latched.h ∧
      s.latched.pixRegion.inBounds s.params.memBytes = true ∧
      (s.latched.outRegion (2 * s.latched.w * s.latched.h)).inBounds s.params.memBytes = true ∧
      s.latched.pixRegion.overlaps (s.latched.outRegion (2 * s.latched.w * s.latched.h)) = false := by decide

/-- PackPlacesEveryPixel, in each mode, the output just after the map. -/
theorem test_met_pack : ∀ k ∈ [(0x00, Mode.row), (0x10, .col), (0x20, .colRow), (0x30, .rowCol)],
    let s := start { vectorCfg with config := BitVec.ofNat 32 k.1, outBase := 0x108 } mapX1
    s.latched.mode = some k.2 ∧ s.latched.w ≠ 0 ∧ s.latched.h ≠ 0 ∧
      s.latched.lmapRegion.inBounds s.params.memBytes = true ∧
      (s.latched.outRegion (k.2.packedSize s.latched.w s.latched.h)).inBounds s.params.memBytes = true ∧
      s.latched.lmapRegion.overlaps (s.latched.outRegion (k.2.packedSize s.latched.w s.latched.h)) = false ∧
      ∀ x < s.latched.w, ∀ y < s.latched.h, (mapByte s.latched s.buf x y).toNat ≤ 1 := by decide

/-- PixelsOwnDistinctBits: two pixels of a 2×9 image. -/
theorem test_met_pixels : (1 < 2 ∧ 8 < 9 ∧ 0 < 2 ∧ 8 < 9) ∧ place .colRow 1 8 2 9 ≠ place .colRow 0 8 2 9 := by decide

/-- BitOrderSymmetry: the last byte and both end bits of X1's map in COL. -/
theorem test_met_bit_order : { vectorCfg with config := vectorCfg.config ^^^ 2 }.reverse = true ∧
    7 < Mode.col.packedSize vectorCfg.w vectorCfg.h ∧ 0 < 8 ∧ 7 < 8 := by decide

/-- PolarityIsInvolutive: X1's map and its complement. -/
theorem test_met_polarity : vectorCfg.invert = false ∧ ∀ x < vectorCfg.w, ∀ y < vectorCfg.h,
    (mapByte vectorCfg mapX1 x y).toNat ≤ 1 ∧
    mapByte { vectorCfg with config := vectorCfg.config ||| 1 } (layOut 0x100 [0, 1, 0, 1, 0, 1, 0, 1]) x y =
      1 - mapByte vectorCfg mapX1 x y := by decide

/-- CoincidingModes: W = 8 and H = 8. -/
theorem test_met_coinciding : ({ vectorCfg with height := 8 }.w ≠ 0 ∧ { vectorCfg with height := 8 }.h ≠ 0) ∧
    { vectorCfg with height := 8 }.w ≤ 8 ∧ { vectorCfg with height := 8 }.h ≤ 8 := by decide

/-- EmptyFormatSucceeds. -/
theorem test_met_empty : Instr.formatHexText ∈ [Instr.formatRaw, .formatHex, .formatHexText] ∧
    (start { vectorCfg with srcLen := 0, srcBase := 0xFFFFFFFF } []).latched.srcLen = 0 := by decide

/-- FormatRawCopies, FormatHexWritesTokens and FormatHexTextLaysOutTheText: 3 source bytes, the text ending at the last
byte of BUF. -/
theorem test_met_format : ∀ k ∈ [(3, 0xFFD), (12, 0xFF4), (16, 0xFF0)],
    let s := start { vectorCfg with srcLen := 3, txtBase := BitVec.ofNat 32 k.2 } (layOut 0x200 [0x0A, 0xFF, 0x01])
    s.latched.n ≠ 0 ∧ s.latched.srcRegion.inBounds s.params.memBytes = true ∧
      (s.latched.txtRegion k.1).inBounds s.params.memBytes = true ∧
      s.latched.srcRegion.overlaps (s.latched.txtRegion k.1) = false ∧
      k.1 ∈ [s.latched.n, 4 * s.latched.n, 6 * s.latched.n - 2] := by decide

/-- PreviewRendersTheMap. -/
theorem test_met_preview :
    let s := start { vectorCfg with width := 3, height := 2 } (layOut 0x100 [0, 1, 1, 1, 0, 0])
    s.latched.w ≠ 0 ∧ s.latched.h ≠ 0 ∧ s.latched.lmapRegion.inBounds s.params.memBytes = true ∧
      (s.latched.txtRegion (s.latched.h * (s.latched.w + 1))).inBounds s.params.memBytes = true ∧
      s.latched.lmapRegion.overlaps (s.latched.txtRegion (s.latched.h * (s.latched.w + 1))) = false ∧
      ∀ x < s.latched.w, ∀ y < s.latched.h, (mapByte s.latched s.buf x y).toNat ≤ 1 := by decide

/-- GenerateReportsItsResults: the monochrome path with text (size 1, 4 characters), and the colour path, with the unused
LMAP out of bounds (size 16, raw). -/
theorem test_met_generate :
    (let s := start { vectorCfg with config := 4 } pixelsP1;
      s.latched.mode = some .row ∧ s.latched.w ≠ 0 ∧ s.latched.h ≠ 0 ∧
      s.latched.pixLen.toNat = 4 * s.latched.w * s.latched.h ∧
      1 = (if s.latched.config.getLsbD 3 then 2 * s.latched.w * s.latched.h
        else Mode.row.packedSize s.latched.w s.latched.h) ∧
      4 = (if s.latched.config.getLsbD 2 then 4 * 1 else 1) ∧
      s.latched.pixRegion.inBounds s.params.memBytes = true ∧ s.latched.lmapRegion.inBounds s.params.memBytes = true ∧
      (s.latched.outRegion 1).inBounds s.params.memBytes = true ∧
      (s.latched.txtRegion 4).inBounds s.params.memBytes = true ∧
      s.latched.pixRegion.overlaps (s.latched.outRegion 1) = false ∧
      s.latched.pixRegion.overlaps (s.latched.txtRegion 4) = false ∧
      (s.latched.outRegion 1).overlaps (s.latched.txtRegion 4) = false ∧
      s.latched.pixRegion.overlaps s.latched.lmapRegion = false ∧
      s.latched.lmapRegion.overlaps (s.latched.outRegion 1) = false ∧
      s.latched.lmapRegion.overlaps (s.latched.txtRegion 4) = false) ∧
    (let s := start { vectorCfg with config := 8, lmapBase := 0xFFFFFFFF } pixelsP1;
      s.latched.mode = some .row ∧ s.latched.w ≠ 0 ∧ s.latched.h ≠ 0 ∧
      s.latched.pixLen.toNat = 4 * s.latched.w * s.latched.h ∧
      16 = (if s.latched.config.getLsbD 3 then 2 * s.latched.w * s.latched.h
        else Mode.row.packedSize s.latched.w s.latched.h) ∧
      16 = (if s.latched.config.getLsbD 2 then 4 * 16 else 16) ∧
      s.latched.pixRegion.inBounds s.params.memBytes = true ∧ s.latched.config.getLsbD 3 ≠ false ∧
      (s.latched.outRegion 16).inBounds s.params.memBytes = true ∧
      (s.latched.txtRegion 16).inBounds s.params.memBytes = true ∧
      s.latched.pixRegion.overlaps (s.latched.outRegion 16) = false ∧
      s.latched.pixRegion.overlaps (s.latched.txtRegion 16) = false ∧
      (s.latched.outRegion 16).overlaps (s.latched.txtRegion 16) = false) := by decide

/-- MonochromeGenerateIsTheComposition. -/
theorem test_met_monochrome :
    (start { vectorCfg with config := 4 } pixelsP1).inflight = none ∧
    (start { vectorCfg with config := 4 } pixelsP1).params.memBytes ≤ 2 ^ 32 ∧
    (start { vectorCfg with config := 4 } pixelsP1).cfg.color = false ∧
    ∃ t, exec .generate (start { vectorCfg with config := 4 } pixelsP1) = .next t ∧ t.status.err = false :=
  ⟨rfl, by decide, by decide, endsWell_next (by decide)⟩

/-- ColorGenerateIsTheComposition. -/
theorem test_met_color :
    (start { vectorCfg with config := 8 } pixelsP1).inflight = none ∧
    (start { vectorCfg with config := 8 } pixelsP1).params.memBytes ≤ 2 ^ 32 ∧
    (start { vectorCfg with config := 8 } pixelsP1).cfg.color = true ∧
    ∃ t, exec .generate (start { vectorCfg with config := 8 } pixelsP1) = .next t ∧ t.status.err = false :=
  ⟨rfl, by decide, by decide, endsWell_next (by decide)⟩

/-- ReportedLengthsAreExact, for each command it names. -/
theorem test_met_lengths : ∀ i ∈ [Instr.packColor, .pack, .formatRaw, .formatHex, .formatHexText, .size, .preview,
    .generate],
    (start vectorCfg (pixelsP1 ++ mapX1 ++ [(0x200, 0)])).params.memBytes ≤ 2 ^ 32 ∧
    ∃ t, exec i (start vectorCfg (pixelsP1 ++ mapX1 ++ [(0x200, 0)])) = .next t ∧ t.status.err = false := by
  intro i hi
  refine ⟨by decide, endsWell_next ?_⟩
  revert i
  decide

/-- MemoryStaysLegal, BusyStaysMatched, ReservedBitsStayClear and StatusAndInfoStayLegal: a PACK in flight, whose step
completes it. -/
theorem test_met_invariants :
    MemoryLegal (packing 0) ∧ BusyMatches (packing 0) ∧ ReservedLegal (packing 0) ∧ StatusLegal (packing 0).status ∧
    InfoLegal (packing 0) ∧ ∃ t, step (packing 0) = .next t := by
  refine ⟨⟨by decide, by decide⟩, ⟨rfl, ?_⟩, ⟨⟨by decide, by decide⟩, ?_⟩, ⟨fun _ => rfl, fun _ => ⟨rfl, rfl⟩, ?_⟩,
    .inr (by decide), ⟨_, rfl⟩⟩
  · intro c h
    cases h
    rfl
  · intro c h
    cases h
    exact ⟨by decide, by decide⟩
  · intro h
    cases h

/-! The errors of each command: one state for each clause, at a boundary value. -/

/-- BinarizeCheckOrder. -/
theorem test_met_binarize_errors :
    let s (L : ConfigRegs) := start L []
    let right (L : ConfigRegs) := L.w ≠ 0 ∧ L.h ≠ 0 ∧ L.pixLen.toNat = 4 * L.w * L.h
    (s { vectorCfg with width := 0 }).latched.w = 0 ∧
    ((s { vectorCfg with height := 0 }).latched.w ≠ 0 ∧ (s { vectorCfg with height := 0 }).latched.h = 0) ∧
    (∀ k ∈ [31, 33],
      (s { vectorCfg with pixLen := BitVec.ofNat 32 k }).latched.pixLen.toNat ≠ 4 * vectorCfg.w * vectorCfg.h) ∧
    (right (s { vectorCfg with pixBase := 0xFE1 }).latched ∧
      (s { vectorCfg with pixBase := 0xFE1 }).latched.pixRegion.inBounds 4096 = false) ∧
    (right (s { vectorCfg with lmapBase := 0xFF9 }).latched ∧
      (s { vectorCfg with lmapBase := 0xFF9 }).latched.pixRegion.inBounds 4096 = true ∧
      (s { vectorCfg with lmapBase := 0xFF9 }).latched.lmapRegion.inBounds 4096 = false) ∧
    (right (s { vectorCfg with lmapBase := 0x01F }).latched ∧
      (s { vectorCfg with lmapBase := 0x01F }).latched.pixRegion.inBounds 4096 = true ∧
      (s { vectorCfg with lmapBase := 0x01F }).latched.lmapRegion.inBounds 4096 = true ∧
      (s { vectorCfg with lmapBase := 0x01F }).latched.pixRegion.overlaps
        (s { vectorCfg with lmapBase := 0x01F }).latched.lmapRegion = true) := by decide

/-- The image is not empty and PIX_LEN is right. -/
def goodImage (L : ConfigRegs) : Bool :=
  decide (L.w ≠ 0) && decide (L.h ≠ 0) && decide (L.pixLen.toNat = 4 * L.w * L.h)

/-- PackColorCheckOrder. -/
theorem test_met_packColor_errors :
    let L (pix out : Word) : ConfigRegs := { vectorCfg with pixBase := pix, outBase := out }
    let out (L : ConfigRegs) : Region := L.outRegion (2 * L.w * L.h)
    { vectorCfg with width := 0 }.w = 0 ∧
    ({ vectorCfg with height := 0 }.w ≠ 0 ∧ { vectorCfg with height := 0 }.h = 0) ∧
    ({ vectorCfg with pixLen := 33 }.w ≠ 0 ∧ { vectorCfg with pixLen := 33 }.h ≠ 0 ∧
      { vectorCfg with pixLen := 33 }.pixLen.toNat ≠ 4 * vectorCfg.w * vectorCfg.h) ∧
    (goodImage (L 0xFE1 0x200) = true ∧ (L 0xFE1 0x200).pixRegion.inBounds 4096 = false) ∧
    (goodImage (L 0 0xFF1) = true ∧ (L 0 0xFF1).pixRegion.inBounds 4096 = true ∧
      (out (L 0 0xFF1)).inBounds 4096 = false) ∧
    (goodImage (L 0 0x01F) = true ∧ (L 0 0x01F).pixRegion.inBounds 4096 = true ∧
      (out (L 0 0x01F)).inBounds 4096 = true ∧ (L 0 0x01F).pixRegion.overlaps (out (L 0 0x01F)) = true) := by decide

/-- PackCheckOrder. -/
theorem test_met_pack_errors :
    let L (lmap out : Word) : ConfigRegs := { vectorCfg with lmapBase := lmap, outBase := out }
    let out (L : ConfigRegs) : Region := L.outRegion (Mode.row.packedSize L.w L.h)
    (∀ k ∈ [0x40, 0x70], 4 ≤ { vectorCfg with config := BitVec.ofNat 32 k }.modeField.toNat) ∧
    (∀ k ∈ [(0x100, 0x200), (0xFF9, 0x200), (0x100, 0x1000), (0x100, 0x107)],
      (L (BitVec.ofNat 32 k.1) (BitVec.ofNat 32 k.2)).mode = some .row ∧
      (L (BitVec.ofNat 32 k.1) (BitVec.ofNat 32 k.2)).w ≠ 0 ∧ (L (BitVec.ofNat 32 k.1) (BitVec.ofNat 32 k.2)).h ≠ 0) ∧
    ({ vectorCfg with width := 0, height := 0 }.w = 0) ∧
    ({ vectorCfg with height := 0 }.w ≠ 0 ∧ { vectorCfg with height := 0 }.h = 0) ∧
    (L 0xFF9 0x200).lmapRegion.inBounds 4096 = false ∧
    ((L 0x100 0x1000).lmapRegion.inBounds 4096 = true ∧ (out (L 0x100 0x1000)).inBounds 4096 = false) ∧
    ((L 0x100 0x107).lmapRegion.inBounds 4096 = true ∧ (out (L 0x100 0x107)).inBounds 4096 = true ∧
      (L 0x100 0x107).lmapRegion.overlaps (out (L 0x100 0x107)) = true) ∧
    (vectorCfg.lmapRegion.inBounds 4096 = true ∧ (out vectorCfg).inBounds 4096 = true ∧
      vectorCfg.lmapRegion.overlaps (out vectorCfg) = false ∧ ∃ i, i < vectorCfg.w * vectorCfg.h ∧
        1 < (memRead (layOut 0x100 [1, 0, 1, 0, 1, 0, 1, 2]) (vectorCfg.lmapBase.toNat + i)).toNat) := by
  refine ⟨by decide, by decide, by decide, by decide, by decide, by decide, by decide, by decide, by decide, by decide, 7,
    by decide, by decide⟩

/-- FormatCheckOrder, for FORMAT_HEX. -/
theorem test_met_format_errors :
    let L (src txt : Word) : ConfigRegs := { vectorCfg with srcBase := src, txtBase := txt }
    vectorCfg.n ≠ 0 ∧ (L 0x1000 0x300).srcRegion.inBounds 4096 = false ∧
    ((L 0xFFF 0xFFD).srcRegion.inBounds 4096 = true ∧
      ((L 0xFFF 0xFFD).txtRegion (4 * (L 0xFFF 0xFFD).n)).inBounds 4096 = false) ∧
    ((L 0x303 0x300).srcRegion.inBounds 4096 = true ∧
      ((L 0x303 0x300).txtRegion (4 * (L 0x303 0x300).n)).inBounds 4096 = true ∧
      (L 0x303 0x300).srcRegion.overlaps ((L 0x303 0x300).txtRegion (4 * (L 0x303 0x300).n)) = true) := by decide

/-- PreviewCheckOrder. -/
theorem test_met_preview_errors :
    let L (lmap txt : Word) : ConfigRegs := { vectorCfg with lmapBase := lmap, txtBase := txt }
    let txt (L : ConfigRegs) : Region := L.txtRegion (L.h * (L.w + 1))
    { vectorCfg with width := 0 }.w = 0 ∧
    ({ vectorCfg with height := 0 }.w ≠ 0 ∧ { vectorCfg with height := 0 }.h = 0) ∧
    (goodImage (L 0xFF9 0x300) = true ∧ (L 0xFF9 0x300).lmapRegion.inBounds 4096 = false) ∧
    (goodImage (L 0x100 0xFF8) = true ∧ (L 0x100 0xFF8).lmapRegion.inBounds 4096 = true ∧
      (txt (L 0x100 0xFF8)).inBounds 4096 = false) ∧
    (goodImage (L 0x100 0x107) = true ∧ (L 0x100 0x107).lmapRegion.inBounds 4096 = true ∧
      (txt (L 0x100 0x107)).inBounds 4096 = true ∧ (L 0x100 0x107).lmapRegion.overlaps (txt (L 0x100 0x107)) = true) ∧
    (goodImage vectorCfg = true ∧ vectorCfg.lmapRegion.inBounds 4096 = true ∧ (txt vectorCfg).inBounds 4096 = true ∧
      vectorCfg.lmapRegion.overlaps (txt vectorCfg) = false ∧
      ∃ i, i < vectorCfg.w * vectorCfg.h ∧
        1 < (memRead (layOut 0x100 [1, 0, 0xFF, 0, 1, 0, 1, 0]) (vectorCfg.lmapBase.toNat + i)).toNat) :=
  ⟨by decide, by decide, by decide, by decide, by decide, by decide, by decide, by decide, by decide, 2, by decide,
    by decide⟩

/-- GenerateCheckOrder: the clauses up to the bounds, each with every check before it passed. -/
theorem test_met_generate_bounds :
    let L (config pix lmap out txt : Word) : ConfigRegs :=
      { vectorCfg with config := config, pixBase := pix, lmapBase := lmap, outBase := out, txtBase := txt }
    let good (L : ConfigRegs) : Bool := decide (L.modeField.toNat < 4) && goodImage L
    let lmapOk (L : ConfigRegs) : Bool := L.pixRegion.inBounds 4096 && (L.color || L.lmapRegion.inBounds 4096)
    4 ≤ (L 0x48 0 0x100 0x200 0x300).modeField.toNat ∧
    (good (L 0x30 0xFE1 0x100 0x200 0x300) = true ∧ (L 0x30 0xFE1 0x100 0x200 0x300).pixRegion.inBounds 4096 = false) ∧
    (good (L 0 0 0xFF9 0x200 0x300) = true ∧ (L 0 0 0xFF9 0x200 0x300).pixRegion.inBounds 4096 = true ∧
      (L 0 0 0xFF9 0x200 0x300).color = false ∧ (L 0 0 0xFF9 0x200 0x300).lmapRegion.inBounds 4096 = false) ∧
    (∀ k ∈ [(8, 0xFF9, 0xFF1), (0, 0x100, 0x1000)],
      let M := L (BitVec.ofNat 32 k.1) 0 (BitVec.ofNat 32 k.2.1) (BitVec.ofNat 32 k.2.2) 0x300
      good M = true ∧ lmapOk M = true ∧ (M.outRegion M.generateSize).inBounds 4096 = false) ∧
    (∀ k ∈ [(0, 0x1000), (4, 0xFFD), (8, 0xFF1), (0xC, 0xFC1)],
      let M := L (BitVec.ofNat 32 k.1) 0 0x100 0x200 (BitVec.ofNat 32 k.2)
      good M = true ∧ lmapOk M = true ∧ (M.outRegion M.generateSize).inBounds 4096 = true ∧
        (M.txtRegion M.generateTextLen).inBounds 4096 = false) := by decide

/-- GenerateCheckOrder: an overlap of each pair of regions, every check before it passed. -/
theorem test_met_generate_overlaps :
    let L (lmap out txt : Nat) : ConfigRegs :=
      { vectorCfg with lmapBase := BitVec.ofNat 32 lmap, outBase := BitVec.ofNat 32 out, txtBase := BitVec.ofNat 32 txt }
    let out (L : ConfigRegs) : Region := L.outRegion L.generateSize
    let txt (L : ConfigRegs) : Region := L.txtRegion L.generateTextLen
    (∀ k ∈ [(0x100, 0x01F, 0x300), (0x100, 0x200, 0x01F), (0x100, 0x300, 0x300), (0x01F, 0x200, 0x300),
        (0x100, 0x107, 0x300), (0x2F9, 0x200, 0x300)],
      let M := L k.1 k.2.1 k.2.2
      M.modeField.toNat < 4 ∧ goodImage M = true ∧ M.pixRegion.inBounds 4096 = true ∧
        M.lmapRegion.inBounds 4096 = true ∧ (out M).inBounds 4096 = true ∧ (txt M).inBounds 4096 = true ∧
        M.color = false) ∧
    (L 0x100 0x01F 0x300).pixRegion.overlaps (out (L 0x100 0x01F 0x300)) = true ∧
    (L 0x100 0x200 0x01F).pixRegion.overlaps (txt (L 0x100 0x200 0x01F)) = true ∧
    (out (L 0x100 0x300 0x300)).overlaps (txt (L 0x100 0x300 0x300)) = true ∧
    (L 0x01F 0x200 0x300).pixRegion.overlaps (L 0x01F 0x200 0x300).lmapRegion = true ∧
    (L 0x100 0x107 0x300).lmapRegion.overlaps (out (L 0x100 0x107 0x300)) = true ∧
    (L 0x2F9 0x200 0x300).lmapRegion.overlaps (txt (L 0x2F9 0x200 0x300)) = true := by decide

end Sys2Proof.Tests
end

section
/-! SUPPORT. Which words the decoder takes for a command, and how the completion of any other word ends. -/

namespace Sys2Proof.Machine

/-- The opcode map is the table of the opcodes, read backwards (30_encoding.md R71). -/
theorem instrOfOpcode_eq_some_iff (op : BitVec 4) (i : Instr) : instrOfOpcode op = some i ↔ op = i.opcode := by
  cases i <;> revert op <;> decide

/-- With no reserved bit set, the OPCODE is all there is of a word (30_encoding.md R70). -/
theorem eq_setWidth_opcodeField {w : Word} (h : reservedField w = 0) : w = (opcodeField w).setWidth 32 := by
  have hhigh : w.toNat / 2 ^ 4 % 2 ^ 28 = 0 := by
    simpa [reservedField, Nat.shiftRight_eq_div_pow] using congrArg BitVec.toNat h
  have hlow : (opcodeField w).toNat = w.toNat % 2 ^ 4 := by simp [opcodeField]
  have hlt : w.toNat < 2 ^ 32 := w.isLt
  refine BitVec.eq_of_toNat_eq ?_
  rw [BitVec.toNat_setWidth, hlow]
  omega

theorem eq_encode_of_decodeWord_ok {w : Word} {i : Instr} (h : decodeWord w = .ok i) : w = encode i := by
  unfold decodeWord at h
  split at h
  · cases h
  · rename_i hres
    split at h
    · rename_i j hj
      cases h
      have hop : opcodeField w = i.opcode := (instrOfOpcode_eq_some_iff _ _).1 hj
      rw [encode, ← hop]
      exact eq_setWidth_opcodeField (by simpa using hres)
    · cases h

/-- A word that is no command's encoding is refused by the decoder. -/
theorem exists_decodeWord_error {w : Word} (h : ∀ i, w ≠ encode i) : ∃ e, decodeWord w = .error e := by
  cases hd : decodeWord w with
  | error e => exact ⟨e, rfl⟩
  | ok i => exact absurd (eq_encode_of_decodeWord_ok hd) (h i)

@[simp] theorem badCommand_code (e : DecodeError) : (badCommand e).code = 4 := by
  cases e <;> rfl

theorem complete_of_decodeWord_error {c : Inflight} {e : DecodeError} (s : State) (h : decodeWord c.word = .error e) :
    complete c s = .next (raiseError s (badCommand e)) := by
  simp only [complete, h, completeBadCommand]

end Sys2Proof.Machine
end

section
/-! SUPPORT. The register window: a 32-bit host access at a register's offset is the access of that register, and what a
register reads as after a write. -/

namespace Sys2Proof.Machine

/-! ### Accesses by offset -/

@[simp] theorem regAt_offset (r : Reg) : regAt r.offset = some r := by
  cases r <;> rfl

@[simp] theorem regAccess_wf_offset (r : Reg) : RegAccess.wf r.offset 32 = true := by
  cases r <;> rfl

theorem hostPerform_writeReg_offset (s : State) (r : Reg) (v : Word) :
    hostPerform (.writeReg r.offset 32 v) s = .next (writeReg s r v) := by
  simp [hostPerform, regWrite, writeOffset]

theorem hostPerform_readReg_offset (s : State) (r : Reg) :
    hostPerform (.readReg r.offset 32) s = .next (reply s (readReg s r)) := by
  simp [hostPerform, regRead, readOffset]

/-! ### Writes of CMD -/

theorem hostPerform_writeCmd_idle {s : State} (w : Word) (h : s.status.busy = false) :
    hostPerform (.writeReg 0x00 32 w) s = .next (accept s w) := by
  have hw : writeReg s .cmd w = accept s w := by simp [writeReg, writeCmd, h]
  rw [← hw]
  exact hostPerform_writeReg_offset s .cmd w

theorem hostPerform_writeCmd_busy {s : State} (w : Word) (h : s.status.busy = true) :
    hostPerform (.writeReg 0x00 32 w) s = .next (drop s) := by
  have hw : writeReg s .cmd w = drop s := by simp [writeReg, writeCmd, h]
  rw [← hw]
  exact hostPerform_writeReg_offset s .cmd w

/-! ### Writes of the other registers -/

/-- The RW registers but CMD, in the order of 10_state.md R22. -/
def configRegisters : List Reg :=
  [.config, .width, .height, .threshold, .lineBreak, .pixBase, .pixLen, .lmapBase, .outBase, .srcBase, .srcLen, .txtBase]

/-- The RO registers, in the order of 10_state.md R22. -/
def readOnlyRegisters : List Reg :=
  [.status, .resBytes, .resBytesPerPage, .resPageCount, .resWidth, .resHeight, .resInfo, .resTxtLen, .resSize]

/-- What a configuration register keeps of a word written to it (10_state.md R29, R32, R49). -/
def storedBits (r : Reg) (v : Word) : Word :=
  match r with
  | .config => v &&& configMask
  | .threshold => v &&& thresholdMask
  | _ => v

theorem and_configMask (v : Word) : v &&& configMask = v % 128 :=
  BitVec.eq_of_toNat_eq (by simpa [configMask] using Nat.and_two_pow_sub_one_eq_mod v.toNat 7)

theorem and_thresholdMask (v : Word) : v &&& thresholdMask = v % 256 :=
  BitVec.eq_of_toNat_eq (by simpa [thresholdMask] using Nat.and_two_pow_sub_one_eq_mod v.toNat 8)

theorem storedBits_eq (r : Reg) (v : Word) :
    storedBits r v = if r = .config then v % 128 else if r = .threshold then v % 256 else v := by
  cases r
  case config => exact and_configMask v
  case threshold => exact and_thresholdMask v
  all_goals rfl

theorem writeReg_config {r : Reg} (h : r ∈ configRegisters) (s : State) (v : Word) :
    writeReg s r v = { s with cfg := writeConfigReg s.cfg r v } := by
  unfold configRegisters at h
  fin_cases h <;> rfl

theorem writeReg_readOnly {r : Reg} (h : r ∈ readOnlyRegisters) (s : State) (v : Word) : writeReg s r v = s := by
  unfold readOnlyRegisters at h
  fin_cases h <;> rfl

/-- A write of a configuration register, seen through every register of the window. -/
theorem readReg_writeReg_config {r : Reg} (h : r ∈ configRegisters) (s : State) (v : Word) (r' : Reg) :
    readReg (writeReg s r v) r' = if r' = r then storedBits r v else readReg s r' := by
  unfold configRegisters at h
  fin_cases h <;> cases r' <;> rfl

/-! ### Reset -/

theorem readReg_reset (r : Reg) : readReg State.reset r = if r = .lineBreak then 0x10 else 0 := by
  cases r <;> rfl

theorem memRead_reset (a : Nat) : memRead State.reset.buf a = Config.powerOnByte a := rfl

end Sys2Proof.Machine
end

section
/-! The statements about acceptance and dropping, the reset state and the register window (10_state.md R41, R43, R48, R49). -/

namespace Sys2Proof.Machine

/-- Settles O8: the write is `accept`, and a word the decoder refuses completes by raising BAD_COMMAND. -/
theorem idleCmdWriteAccepts : Obligations.IdleCmdWriteAccepts := by
  intro s w hidle
  refine ⟨Config.completionDelay s.draws, accept s w, hostPerform_writeCmd_idle w hidle, rfl, fun hw => ?_⟩
  obtain ⟨e, he⟩ := exists_decodeWord_error hw
  exact ⟨_, complete_of_decodeWord_error _ he, rfl, badCommand_code e⟩

/-- Settles O9: the write is `drop`, which sets OVERRUN and nothing else. -/
theorem busyCmdWriteIsDropped : Obligations.BusyCmdWriteIsDropped :=
  fun _ w hbusy => hostPerform_writeCmd_busy w hbusy

/-- Settles O11: register by register; the flags, the mode and STATUS by evaluating the reset state. -/
theorem resetRegisterValues : Obligations.ResetRegisterValues :=
  ⟨readReg_reset, rfl, rfl, rfl, rfl, rfl, rfl, rfl, rfl, memRead_reset⟩

/-- Settles O13: each access is that of the register at the offset, and a configuration write stores `storedBits`. -/
theorem registerAccessRules : Obligations.RegisterAccessRules := by
  intro s r v
  refine ⟨fun hr => ?_, fun hr => ?_, readReg s r, hostPerform_readReg_offset s r⟩
  · change r ∈ configRegisters at hr
    refine ⟨writeReg s r v, hostPerform_writeReg_offset s r v, ?_, fun r' hne => ?_, ?_⟩
    · rw [readReg_writeReg_config hr, if_pos rfl, storedBits_eq]
    · rw [readReg_writeReg_config hr, if_neg hne]
    · rw [writeReg_config hr]
  · rw [hostPerform_writeReg_offset, writeReg_readOnly hr]

end Sys2Proof.Machine
end

section
/-! SUPPORT. The host's accesses: what a BUF access of one byte does outside the regions in flight, and that every access
which is no well-formed one only records BUS_ERROR. -/

namespace Sys2Proof.Machine

/-! ### Well-formed BUF accesses -/

theorem bufWrite_outside_regions {s : State} {a : Nat} (v : Word) (ha : a < s.params.memBytes)
    (h : inAnyRegion s a = false) : bufWrite s a 8 v = { s with buf := memWrite s.buf a (v.setWidth 8) } := by
  simp [bufWrite, (bufAccess_wf_iff _ _ _).2 ⟨rfl, ha⟩, h]

theorem bufRead_outside_writeRegion {s : State} {a : Nat} (ha : a < s.params.memBytes)
    (h : inWriteRegion s a = false) : bufRead s a 8 = reply s ((memRead s.buf a).setWidth 32) := by
  simp [bufRead, (bufAccess_wf_iff _ _ _).2 ⟨rfl, ha⟩, h]

/-! ### Bus errors -/

theorem not_regAccess_wf {o : BitVec 8} {width : Nat} (h : width ≠ 32 ∨ o.toNat % 4 ≠ 0) :
    ¬RegAccess.wf o width = true :=
  fun hwf => not_and_or.2 h ((regAccess_wf_iff o width).1 hwf)

theorem not_bufAccess_wf {n a width : Nat} (h : width ≠ 8 ∨ n ≤ a) : ¬BufAccess.wf n a width = true := by
  rw [bufAccess_wf_iff]
  omega

theorem regRead_busError (s : State) {o : BitVec 8} {width : Nat} (h : ¬RegAccess.wf o width = true) :
    regRead s o width = recordBusError s :=
  if_neg h

theorem regWrite_busError (s : State) {o : BitVec 8} {width : Nat} (v : Word) (h : ¬RegAccess.wf o width = true) :
    regWrite s o width v = recordBusError s :=
  if_neg h

theorem bufRead_busError {s : State} {a width : Nat} (h : ¬BufAccess.wf s.params.memBytes a width = true) :
    bufRead s a width = recordBusError s :=
  if_neg h

theorem bufWrite_busError {s : State} {a width : Nat} (v : Word) (h : ¬BufAccess.wf s.params.memBytes a width = true) :
    bufWrite s a width v = recordBusError s :=
  if_neg h

end Sys2Proof.Machine
end

section
/-! The statements about the host's accesses to BUF and about bus errors (20_memory.md R52, R54). -/

namespace Sys2Proof.Machine

/-- Settles O18: outside the regions in flight the write is one `memWrite` and the read replies `memRead`. -/
theorem hostByteAccess : Obligations.HostByteAccess := by
  intro s a v ha
  refine ⟨fun hregion => ?_, fun hregion => ?_⟩
  · refine ⟨{ s with buf := memWrite s.buf a (v.setWidth 8) }, ?_, rfl, memRead_memWrite_same _ _ _,
      fun b hb => memRead_memWrite_other _ _ hb.symm⟩
    exact congrArg Host.Outcome.next (bufWrite_outside_regions v ha hregion)
  · exact congrArg Host.Outcome.next (bufRead_outside_writeRegion ha hregion)

/-- Settles O21: none of the four accesses is well formed, and each then is `recordBusError`. -/
theorem busErrorsChangeNothing : Obligations.BusErrorsChangeNothing := by
  rintro s o a width v op (⟨hbad, rfl | rfl⟩ | ⟨hbad, rfl | rfl⟩)
  · exact congrArg Host.Outcome.next (regRead_busError s (not_regAccess_wf hbad))
  · exact congrArg Host.Outcome.next (regWrite_busError s v (not_regAccess_wf hbad))
  · exact congrArg Host.Outcome.next (bufRead_busError (not_bufAccess_wf hbad))
  · exact congrArg Host.Outcome.next (bufWrite_busError v (not_bufAccess_wf hbad))

end Sys2Proof.Machine
end

section
/-! SUPPORT. The decoder said in the two fields of a word, and which values of the OPCODE field name a command. -/

namespace Sys2Proof.Machine

theorem decodeWord_eq_ok_iff_fields (w : Word) (i : Instr) :
    decodeWord w = .ok i ↔ reservedField w = 0 ∧ instrOfOpcode (opcodeField w) = some i := by
  by_cases hres : reservedField w = 0#28
  · cases hop : instrOfOpcode (opcodeField w) <;> simp [decodeWord, hres, hop]
  · simp [decodeWord, hres]

@[simp] theorem reservedField_encode (i : Instr) : reservedField (encode i) = 0 := by
  cases i <;> rfl

@[simp] theorem opcodeField_encode (i : Instr) : opcodeField (encode i) = i.opcode := by
  cases i <;> rfl

@[simp] theorem decodeWord_encode (i : Instr) : decodeWord (encode i) = .ok i :=
  (decodeWord_eq_ok_iff_fields _ i).2
    ⟨reservedField_encode i, (instrOfOpcode_eq_some_iff _ i).2 (opcodeField_encode i)⟩

theorem decodeWord_eq_ok_iff (w : Word) (i : Instr) : decodeWord w = .ok i ↔ w = encode i := by
  refine ⟨eq_encode_of_decodeWord_ok, ?_⟩
  rintro rfl
  exact decodeWord_encode i

/-- The opcodes of the map are 0x1 to 0x9, without a gap (30_encoding.md R71, R72). -/
theorem exists_instrOfOpcode_iff (op : BitVec 4) :
    (∃ i, instrOfOpcode op = some i) ↔ 1 ≤ op.toNat ∧ op.toNat ≤ 9 := by
  rw [← Option.isSome_iff_exists]
  revert op
  decide

theorem exists_decodeWord_ok_iff (w : Word) :
    (∃ i, decodeWord w = .ok i) ↔
      reservedField w = 0 ∧ 1 ≤ (opcodeField w).toNat ∧ (opcodeField w).toNat ≤ 9 := by
  simp only [decodeWord_eq_ok_iff_fields, exists_and_left, exists_instrOfOpcode_iff]

end Sys2Proof.Machine
end

section
/-! The statement about the opcode map (30_encoding.md R71). -/

namespace Sys2Proof.Machine

/-- Settles O2: the words by the opcode table; the round trip from `decodeWord_encode` and its converse; the set of command
words from the two fields the decoder looks at. -/
theorem decodeAndEncodeAgree : Obligations.DecodeAndEncodeAgree := by
  refine ⟨fun i => ?_, decodeWord_eq_ok_iff, exists_decodeWord_ok_iff⟩
  cases i <;> rfl

end Sys2Proof.Machine
end

section
/-! SUPPORT. The STATUS of a success, the place of a pixel in a row-major sequence, and what BINARIZE answers and leaves in BUF
once its checks pass (40_binarizer.md R85). -/

namespace Sys2Proof.Machine

/-! ### Shared by the commands -/

theorem succeededStatus_finishOk (s : State) (e : Effect) : SucceededStatus s (finishOk s e) := ⟨rfl, rfl⟩

/-- The pixels of a W by H image, row-major, have the numbers below W·H. -/
theorem rowMajor_lt {x y W H : Nat} (hx : x < W) (hy : y < H) : y * W + x < W * H := by
  rw [Nat.mul_comm y W, Nat.add_comm]
  exact Nat.add_mul_lt_mul_of_lt_of_lt hx hy

theorem thresholdValue_eq_mod (L : ConfigRegs) : L.thresholdValue = L.threshold.toNat % 256 := by
  simp [ConfigRegs.thresholdValue, BitVec.extractLsb'_toNat]

/-! ### BINARIZE -/

/-- The converse of `binarizeError_none`. -/
theorem binarizeError_eq_none {n : Nat} {L : ConfigRegs} (hw : L.w ≠ 0) (hh : L.h ≠ 0)
    (hlen : L.pixLen.toNat = 4 * L.w * L.h) (hpix : L.pixRegion.inBounds n = true)
    (hlmap : L.lmapRegion.inBounds n = true) (hdisj : L.pixRegion.overlaps L.lmapRegion = false) :
    binarizeError n L = none := by
  simp [binarizeError, hw, hh, hlen, hpix, hlmap, hdisj]

theorem exec_binarize_of_no_error {s : State} (h : binarizeError s.params.memBytes s.latched = none) :
    exec .binarize s =
      .next (finishOk s { writes := binarizeWrites s.latched s.buf, packed := none, txtLen := none, size := none }) :=
  exec_of_ok (by rw [commandResult, binarize, h, checked_none])

theorem memRead_binarizeWrites (L : ConfigRegs) (m : Memory) {i : Nat} (hi : i < L.w * L.h) :
    memRead (memWriteAll m (binarizeWrites L m)) (L.lmapBase.toNat + i) = lumPixel L m i := by
  rw [binarizeWrites, memRead_layOut_getD m _ _ (by rwa [luminanceMap_length]), luminanceMap_getD L m hi]

/-- A pixel's map value reads the three bytes at offsets 0 to 2 and nothing else of BUF (40_binarizer.md R87). -/
theorem lumPixel_congr {L : ConfigRegs} {m m' : Memory} {i : Nat}
    (h : ∀ k < 3, memRead m' (L.pixBase.toNat + 4 * i + k) = memRead m (L.pixBase.toNat + 4 * i + k)) :
    lumPixel L m' i = lumPixel L m i := by
  have hr := h 0 (by decide)
  have hg := h 1 (by decide)
  have hb := h 2 (by decide)
  rw [Nat.add_zero] at hr
  simp only [lumPixel, hr, hg, hb]

end Sys2Proof.Machine
end

section
/-! The statements about BINARIZE's map (40_binarizer.md R86, R87). -/

namespace Sys2Proof.Machine

/-- Settles O31: the checks pass, the byte at pixel (x, y)'s row-major place is `lumPixel`, and that is the comparison with
the eight bits of THRESHOLD. -/
theorem binarizeComputesTheMap : Obligations.BinarizeComputesTheMap := by
  intro s hw hh hlen hpix hlmap hdisj
  refine ⟨_, exec_binarize_of_no_error (binarizeError_eq_none hw hh hlen hpix hlmap hdisj),
    succeededStatus_finishOk s _, rfl, fun x y hx hy => ?_⟩
  rw [finishOk_buf, memRead_binarizeWrites _ _ (rowMajor_lt hx hy), ← thresholdValue_eq_mod]
  rfl

/-- Settles O32: the maps agree pixel by pixel. -/
theorem binarizeIgnoresAlpha : Obligations.BinarizeIgnoresAlpha := fun _ _ _ h =>
  List.map_congr_left fun i hi => lumPixel_congr fun k => h i k (List.mem_range.1 hi)

end Sys2Proof.Machine
end

section
/-! SUPPORT. The RGB565 value and INVERT as arithmetic (41_rgb565_packer.md R94, R96), and what PACK_COLOR answers and leaves in
BUF and in the result registers once its checks pass (41_rgb565_packer.md R93, R97). -/

namespace Sys2Proof.Machine

/-! ### The bytes of a pixel -/

/-- The fields of RGB565 have disjoint bits, so joining them is a sum (41_rgb565_packer.md R94). -/
theorem rgb565_toNat (r g b : Byte) :
    (rgb565 r g b).toNat = 2048 * (r.toNat / 8) + 32 * (g.toNat / 4) + b.toNat / 8 := by
  have hr := r.isLt
  have hg := g.isLt
  have hb := b.isLt
  have hlow : g.toNat / 4 < 2 ^ 6 := by omega
  have hlowest : b.toNat / 8 < 2 ^ 5 := by omega
  simp only [rgb565, BitVec.toNat_append, BitVec.extractLsb'_toNat, Nat.shiftRight_eq_div_pow]
  rw [Nat.mod_eq_of_lt (by omega), Nat.mod_eq_of_lt hlow, Nat.mod_eq_of_lt hlowest,
    ← Nat.shiftLeft_add_eq_or_of_lt hlow, ← Nat.shiftLeft_add_eq_or_of_lt hlowest]
  omega

theorem invertByte_toNat (inv : Bool) (v : Byte) :
    (invertByte inv v).toNat = if inv then 255 - v.toNat else v.toNat := by
  cases inv
  · rfl
  · simp [invertByte, BitVec.toNat_not]

theorem highByte_toNat (v : BitVec 16) : (v.extractLsb' 8 8).toNat = v.toNat / 256 := by
  rw [BitVec.extractLsb'_toNat, Nat.shiftRight_eq_div_pow]
  omega

theorem lowByte_toNat (v : BitVec 16) : (v.extractLsb' 0 8).toNat = v.toNat % 256 := by
  rw [BitVec.extractLsb'_toNat, Nat.shiftRight_zero]

/-! ### PACK_COLOR -/

/-- The converse of `packColorError_none`. -/
theorem packColorError_eq_none {n : Nat} {L : ConfigRegs} (hw : L.w ≠ 0) (hh : L.h ≠ 0)
    (hlen : L.pixLen.toNat = 4 * L.w * L.h) (hpix : L.pixRegion.inBounds n = true)
    (hout : (L.outRegion (2 * L.w * L.h)).inBounds n = true)
    (hdisj : L.pixRegion.overlaps (L.outRegion (2 * L.w * L.h)) = false) : packColorError n L = none := by
  simp [packColorError, hw, hh, hlen, hpix, hout, hdisj]

theorem exec_packColor_of_no_error {s : State} (h : packColorError s.params.memBytes s.latched = none) :
    exec .packColor s =
      .next (finishOk s { writes := packColorWrites s.latched s.buf, packed := some (colorMeta s.latched),
                          txtLen := none, size := none }) :=
  exec_of_ok (by rw [commandResult, packColor, h, checked_none])

/-- HEIGHT is a 32-bit register, so its number fits the page count. -/
theorem ofNat_h (L : ConfigRegs) : BitVec.ofNat 32 L.h = L.height := by
  simp [ConfigRegs.h]

/-- One page of 2·W bytes per pixel row, and RES_INFO 8 (41_rgb565_packer.md R97). -/
theorem writeResults_colorMeta (r : ResultRegs) (L : ConfigRegs) (cells : List Host.Cell) :
    writeResults r { writes := cells, packed := some (colorMeta L), txtLen := none, size := none } =
      { r with bytes := BitVec.ofNat 32 (2 * L.w * L.h), bytesPerPage := BitVec.ofNat 32 (2 * L.w)
               pageCount := L.height, width := L.width, height := L.height, info := 8 } := by
  simp only [writeResults, writePacked, writeIfAny, colorMeta, colorInfo, ofNat_h]

theorem memRead_packColorWrites (L : ConfigRegs) (m : Memory) {i j : Nat} (hi : i < L.w * L.h) (hj : j < 2) :
    memRead (memWriteAll m (packColorWrites L m)) (L.outBase.toNat + 2 * i + j) = (colorPixel L m i).getD j 0 := by
  rw [packColorWrites, Nat.add_assoc,
    memRead_layOut_getD m _ _ (by rw [colorBytes_length, Nat.mul_assoc]; omega), colorBytes_getD L m hi hj]

end Sys2Proof.Machine
end

section
/-! The statement about PACK_COLOR (41_rgb565_packer.md R93 to R97). -/

namespace Sys2Proof.Machine

/-- Settles O34: the checks pass; the two bytes at a pixel's row-major place are those of `colorPixel`, the high and the low
byte of `rgb565` under `invertByte`. -/
theorem packColorWritesRgb565 : Obligations.PackColorWritesRgb565 := by
  intro s hw hh hlen hpix hout hdisj
  refine ⟨_, exec_packColor_of_no_error (packColorError_eq_none hw hh hlen hpix hout hdisj),
    succeededStatus_finishOk s _, writeResults_colorMeta s.res s.latched _, ?_⟩
  rintro x y _ _ _ hx hy rfl rfl rfl
  have hi := rowMajor_lt hx hy
  constructor
  · have hhigh := memRead_packColorWrites s.latched s.buf hi (j := 0) (by decide)
    rw [Nat.add_zero] at hhigh
    rw [finishOk_buf, hhigh, ← rgb565_toNat, ← highByte_toNat]
    exact invertByte_toNat _ _
  · rw [finishOk_buf, memRead_packColorWrites _ _ hi (by decide), ← rgb565_toNat, ← lowByte_toNat]
    exact invertByte_toNat _ _

end Sys2Proof.Machine
end

section
/-! SUPPORT. The map values, the polarity and the page count of PACK, the bit a pixel owns as two equations, and what PACK
answers and leaves in BUF and in the result registers once its checks pass (42_bitmap_sampler.md R100 to R106). -/

namespace Sys2Proof.Machine

/-! ### The map -/

/-- Every number below W·H is the row-major place of a pixel. -/
theorem exists_rowMajor {W H i : Nat} (hi : i < W * H) : ∃ x y, x < W ∧ y < H ∧ i = y * W + x := by
  have hW : 0 < W := Nat.pos_of_ne_zero (by rintro rfl; simp at hi)
  exact ⟨i % W, i / W, Nat.mod_lt i hW, Nat.div_lt_of_lt_mul hi, (Nat.div_add_mod' i W).symm⟩

theorem badMapValue_eq_false {L : ConfigRegs} {m : Memory}
    (h : ∀ x y, x < L.w → y < L.h → (mapByte L m x y).toNat ≤ 1) : badMapValue L m = false := by
  simp only [badMapValue, List.any_eq_false, List.mem_range, decide_eq_true_eq, Nat.not_lt]
  intro i hi
  obtain ⟨x, y, hx, hy, rfl⟩ := exists_rowMajor hi
  rw [← Nat.add_assoc]
  exact h x y hx hy

/-- The map value that makes a 1 bit is 0, or 1 under INVERT (42_bitmap_sampler.md R103, R105). -/
theorem pixelValue_eq_zero_iff (inv : Bool) (v : Byte) : pixelValue inv v = 0 ↔ v = if inv then 1 else 0 := by
  cases inv
  · rfl
  · simp only [pixelValue, if_true]
    bv_omega

theorem ownedBit_eq_iff (L : ConfigRegs) (mode : Mode) (x y j bit : Nat) :
    ownedBit L mode (x, y) = (j, bit) ↔
      j = (place mode x y L.w L.h).1 ∧ bit = bitNumber L.reverse (place mode x y L.w L.h).2 := by
  rw [ownedBit, Prod.mk.injEq, eq_comm, eq_comm (a := bit)]

/-! ### The metadata -/

/-- The page count of a mode: H for ROW and ROWCOL, W for COL and COLROW; `ofNat_pageCount` ties it to the quotient of
42_bitmap_sampler.md R106. -/
def ConfigRegs.pages (L : ConfigRegs) : Mode → Word
  | .row | .rowCol => L.height
  | .col | .colRow => L.width

theorem ceil8_pos {n : Nat} (h : n ≠ 0) : 0 < ceil8 n := by
  unfold ceil8
  omega

/-- WIDTH is a 32-bit register, so its number fits the page count. -/
theorem ofNat_w (L : ConfigRegs) : BitVec.ofNat 32 L.w = L.width := by
  simp [ConfigRegs.w]

theorem ofNat_pageCount {L : ConfigRegs} (mode : Mode) (hw : L.w ≠ 0) (hh : L.h ≠ 0) :
    BitVec.ofNat 32 (mode.packedSize L.w L.h / mode.bytesPerPage L.w L.h) = L.pages mode := by
  cases mode
  case row | rowCol => exact (congrArg _ (Nat.mul_div_cancel_left _ (ceil8_pos hw))).trans (ofNat_h L)
  case col | colRow => exact (congrArg _ (Nat.mul_div_cancel_left _ (ceil8_pos hh))).trans (ofNat_w L)

theorem writeResults_packMeta (r : ResultRegs) {L : ConfigRegs} (mode : Mode) (cells : List Host.Cell) (hw : L.w ≠ 0)
    (hh : L.h ≠ 0) :
    writeResults r { writes := cells, packed := some (packMeta L mode), txtLen := none, size := none } =
      { r with bytes := BitVec.ofNat 32 (mode.packedSize L.w L.h)
               bytesPerPage := BitVec.ofNat 32 (mode.bytesPerPage L.w L.h)
               pageCount := L.pages mode, width := L.width, height := L.height, info := BitVec.ofNat 32 mode.number } := by
  simp only [writeResults, writePacked, writeIfAny, packMeta, ofNat_pageCount mode hw hh]

/-! ### PACK -/

/-- The converse of `packError_none`. -/
theorem packError_eq_none {n : Nat} {L : ConfigRegs} {mode : Mode} {m : Memory} (hw : L.w ≠ 0) (hh : L.h ≠ 0)
    (hlmap : L.lmapRegion.inBounds n = true) (hout : (L.outRegion (mode.packedSize L.w L.h)).inBounds n = true)
    (hdisj : L.lmapRegion.overlaps (L.outRegion (mode.packedSize L.w L.h)) = false) (hmap : badMapValue L m = false) :
    packError n L mode m = none := by
  simp [packError, hw, hh, hlmap, hout, hdisj, hmap]

theorem exec_pack_of_no_error {s : State} {mode : Mode} (hm : s.latched.mode = some mode)
    (h : packError s.params.memBytes s.latched mode s.buf = none) :
    exec .pack s =
      .next (finishOk s { writes := packWrites s.latched mode s.buf, packed := some (packMeta s.latched mode),
                          txtLen := none, size := none }) :=
  exec_of_ok (by simp only [commandResult, pack, hm, h, checked_none])

theorem memRead_packWrites (L : ConfigRegs) (mode : Mode) (m : Memory) {j : Nat} (hj : j < mode.packedSize L.w L.h) :
    memRead (memWriteAll m (packWrites L mode m)) (L.outBase.toNat + j) = (packBytes L mode m).getD j 0 := by
  rw [packWrites, memRead_layOut_getD m _ _ (by rwa [packBytes_length])]

end Sys2Proof.Machine
end

section
/-! The statement about PACK's bits (42_bitmap_sampler.md R101, R103 to R106). -/

namespace Sys2Proof.Machine

/-- Settles O35: the checks pass; the bits of the output bytes are those of `packBytes_bit`, and the mode's formulas are
`place` and `bitNumber`. -/
theorem packPlacesEveryPixel : Obligations.PackPlacesEveryPixel := by
  intro s mode hm hw hh hlmap hout hdisj hmap
  refine ⟨_, exec_pack_of_no_error hm (packError_eq_none hw hh hlmap hout hdisj (badMapValue_eq_false hmap)),
    succeededStatus_finishOk s _, ?_, fun j bit hj hbit => ?_⟩
  · rw [finishOk_res, writeResults_packMeta s.res mode _ hw hh]
    cases mode <;> rfl
  · rw [finishOk_buf, memRead_packWrites _ _ _ hj, packBytes_bit _ _ _ hj hbit]
    refine exists_congr fun x => exists_congr fun y => and_congr_right' (and_congr_right' ?_)
    rw [ownedBit_eq_iff, pixelValue_eq_zero_iff, and_assoc]
    cases mode <;> rfl

end Sys2Proof.Machine
end

section
/-! The statement about SIZE (43_output_formatter.md R124). -/

namespace Sys2Proof.Machine

/-- SIZE's result looks at SRC_LEN alone: no region is checked, so there is no error to answer (43_output_formatter.md R124). -/
theorem commandResult_size (n : Nat) (L : ConfigRegs) (m : Memory) :
    commandResult .size n L m = .ok { writes := [], packed := none, txtLen := none, size := some L.srcLen } := rfl

/-- An effect that holds a RES_SIZE alone leaves BUF and the other result registers as they are. -/
theorem finishOk_sizeOnly (s : State) (v : Word) :
    finishOk s { writes := [], packed := none, txtLen := none, size := some v } =
      { s with res := { s.res with size := v }, status := s.status.succeeded, inflight := none } := by
  simp only [finishOk, memWriteAll_nil, writeResults, writePacked_none, writeIfAny_none, writeIfAny_some]

/-- Settles O44: the result is a success whatever the latch and BUF hold, and its effect is RES_SIZE alone. -/
theorem sizeReportsSrcLen : Obligations.SizeReportsSrcLen := by
  intro s
  rw [exec_of_ok (commandResult_size _ _ _), finishOk_sizeOnly, Status.succeeded]

end Sys2Proof.Machine
end

section
/-! SUPPORT. The words the decoder refuses and the error it answers for each (30_encoding.md R72, R73), the command it finds, and
what each makes of the completion (60_exceptions.md R148). -/

namespace Sys2Proof.Machine

theorem decodeWord_of_reservedField_ne {w : Word} (h : reservedField w ≠ 0) : decodeWord w = .error .reservedBits :=
  if_pos h

/-- The opcodes outside the map are 0x0 and 0xA to 0xF (30_encoding.md R72). -/
theorem instrOfOpcode_eq_none {op : BitVec 4} (h : op.toNat = 0 ∨ 10 ≤ op.toNat) : instrOfOpcode op = none := by
  rw [Option.eq_none_iff_forall_ne_some]
  intro i hi
  have hmap := (exists_instrOfOpcode_iff op).1 ⟨i, hi⟩
  omega

theorem decodeWord_of_opcode_outside {w : Word} (hres : reservedField w = 0)
    (hop : (opcodeField w).toNat = 0 ∨ 10 ≤ (opcodeField w).toNat) : decodeWord w = .error .reservedOpcode := by
  simp [decodeWord, hres, instrOfOpcode_eq_none hop]

theorem complete_of_decodeWord_ok {c : Inflight} {i : Instr} (s : State) (h : decodeWord c.word = .ok i) :
    complete c s = exec i s := by
  simp only [complete, h]

/-- Only an error completion leaves ERR = 1, so a command that does has raised an error (10_state.md R27). -/
theorem exec_eq_raiseError_of_err {i : Instr} {s t : State} (h : exec i s = .next t) (herr : t.status.err = true) :
    ∃ e, t = raiseError s e := by
  obtain ⟨e, -, rfl⟩ | ⟨e, -, rfl⟩ := exec_next h
  · simp at herr
  · exact ⟨e, rfl⟩

end Sys2Proof.Machine
end

section
/-! The statements about the check of the command word and about error completions (60_exceptions.md R148, R150). -/

namespace Sys2Proof.Machine

/-- Settles O3: what the decoder answers decides each clause, its errors being the two pairs of BAD_COMMAND, and the command it
finds is the one whose encoding the word is. -/
theorem commandWordsAreCheckedFirst : Obligations.CommandWordsAreCheckedFirst := by
  intro s c _
  refine ⟨fun hres => ?_, fun hres hop => ?_, fun hres hlow hhigh => ?_⟩
  · exact complete_of_decodeWord_error s (decodeWord_of_reservedField_ne hres)
  · exact complete_of_decodeWord_error s (decodeWord_of_opcode_outside hres hop)
  · obtain ⟨i, hi⟩ := (exists_decodeWord_ok_iff c.word).2 ⟨hres, hlow, hhigh⟩
    exact ⟨i, eq_encode_of_decodeWord_ok hi, complete_of_decodeWord_ok s hi⟩

/-- Settles O26: the command has raised an error, and that writes STATUS and the in-flight command alone. -/
theorem errorCompletionChangesNothing : Obligations.ErrorCompletionChangesNothing :=
  fun _ _ _ h herr => exec_eq_raiseError_of_err h herr

end Sys2Proof.Machine
end

section
/-! SUPPORT. The rule for invariants of the machine, that a step keeps what every way it can go on keeps, and for each of the
four invariants what the shared operations do to it (10_state.md R24 to R48, 20_memory.md R50). -/

namespace Sys2Proof.Machine

/-! ### The rule -/

/-- A property that a completion, a host's turn and every change by the host keep is kept by every step. -/
theorem step_keeps {P : State → Prop}
    (hfinish : ∀ {s i e}, commandResult i s.params.memBytes s.latched s.buf = .ok e → P s → P (finishOk s e))
    (hraise : ∀ {s} (e : CmdError), P s → P (raiseError s e))
    (hturn : ∀ {s} (rest : List HostOp), P s → P (tick (issued s rest)))
    (hhost : ∀ {s t}, HostChange s t → P s → P t) {s t : State} (hs : P s) (hstep : step s = .next t) : P t := by
  obtain ⟨-, ⟨c, i, -, -, -, hexec⟩ | ⟨c, e, -, -, -, rfl⟩ | ⟨-, hhostTurn⟩⟩ := step_cases hstep
  · obtain ⟨e, he, rfl⟩ | ⟨e, -, rfl⟩ := exec_next hexec
    · exact hfinish he hs
    · exact hraise e hs
  · exact hraise _ hs
  · obtain ⟨-, rfl⟩ | ⟨op, rest, -, hop⟩ := hostTurn_cases hhostTurn
    · exact hturn s.host.todo hs
    · exact hhost (hostPerform_change hop) (hturn rest hs)

/-! ### BUF -/

theorem memoryLegal_finishOk {s : State} {i : Instr} {e : Effect} (hs : MemoryLegal s)
    (h : commandResult i s.params.memBytes s.latched s.buf = .ok e) : MemoryLegal (finishOk s e) :=
  ⟨memWriteAll_wf _ hs.1, memWriteAll_within _ hs.2 fun _ hc => writes_in_buf h hc⟩

theorem memoryLegal_memWrite {s : State} {a : Nat} (v : Byte) (hs : MemoryLegal s) (ha : a < s.params.memBytes) :
    MemoryLegal { s with buf := memWrite s.buf a v } :=
  ⟨memWrite_wf a v hs.1, memWrite_within v hs.2 ha⟩

theorem memoryLegal_resetBlock {s : State} (hs : MemoryLegal s) : MemoryLegal (resetBlock s) := by
  simp only [MemoryLegal, resetBlock_buf, resetBlock_params, resetBuf]
  split
  · exact ⟨memWriteAll_wf _ hs.1, memWriteAll_within _ hs.2 fun _ hc => (resetCells_addr hc).1⟩
  · exact hs

theorem memoryLegal_hostChange {s t : State} (h : HostChange s t) (hs : MemoryLegal s) : MemoryLegal t := by
  cases h with
  | stored a v hb _ => exact memoryLegal_memWrite v hs hb
  | hazard a hb _ => exact memoryLegal_memWrite _ hs hb
  | wasReset => exact memoryLegal_resetBlock hs
  | replied | nothing | busError | accepted | dropped | configured => exact hs

theorem params_hostChange {s t : State} (h : HostChange s t) : t.params = s.params := by
  cases h <;> rfl

/-! ### BUSY -/

theorem busyMatches_hostChange {s t : State} (h : HostChange s t) (hs : BusyMatches s) : BusyMatches t := by
  cases h with
  | accepted w _ => exact ⟨rfl, fun c hc => by cases hc; rfl⟩
  | wasReset => exact ⟨rfl, nofun⟩
  | replied | nothing | busError | dropped | configured | stored | hazard => exact hs

theorem busyMatches_turn {s : State} (rest : List HostOp) (hs : BusyMatches s) : BusyMatches (tick (issued s rest)) := by
  refine ⟨hs.1.trans Option.isSome_map.symm, fun c hc => ?_⟩
  obtain ⟨c', hc', rfl⟩ := Option.map_eq_some_iff.1 hc
  exact hs.2 c' hc'

/-! ### The reserved bits -/

theorem configMask_clear (v : Word) : (v &&& configMask).toNat < 2 ^ 7 := by
  rw [and_configMask, BitVec.toNat_umod]
  exact Nat.mod_lt _ (by decide)

theorem thresholdMask_clear (v : Word) : (v &&& thresholdMask).toNat < 2 ^ 8 := by
  rw [and_thresholdMask, BitVec.toNat_umod]
  exact Nat.mod_lt _ (by decide)

/-- A host write stores no reserved bit of CONFIG or THRESHOLD (10_state.md R29, R32). -/
theorem reservedClear_writeConfigReg {L : ConfigRegs} (r : Reg) (v : Word) (hL : ReservedClear L) :
    ReservedClear (writeConfigReg L r v) := by
  cases r
  case config => exact ⟨configMask_clear v, hL.2⟩
  case threshold => exact ⟨hL.1, thresholdMask_clear v⟩
  all_goals exact hL

theorem reservedClear_atReset : ReservedClear ConfigRegs.atReset := ⟨by decide, by decide⟩

theorem reservedLegal_hostChange {s t : State} (h : HostChange s t) (hs : ReservedLegal s) : ReservedLegal t := by
  cases h with
  | accepted w _ => exact ⟨hs.1, fun c hc => by cases hc; exact hs.1⟩
  | configured r v => exact ⟨reservedClear_writeConfigReg r v hs.1, hs.2⟩
  | wasReset => exact ⟨reservedClear_atReset, nofun⟩
  | replied | nothing | busError | dropped | stored | hazard => exact hs

theorem reservedLegal_turn {s : State} (rest : List HostOp) (hs : ReservedLegal s) :
    ReservedLegal (tick (issued s rest)) := by
  refine ⟨hs.1, fun c hc => ?_⟩
  obtain ⟨c', hc', rfl⟩ := Option.map_eq_some_iff.1 hc
  exact hs.2 c' hc'

/-! ### STATUS and RES_INFO -/

theorem statusLegal_accepted : StatusLegal Status.accepted := ⟨fun _ => rfl, fun _ => ⟨rfl, rfl⟩, nofun⟩

theorem statusLegal_atReset : StatusLegal Status.atReset := ⟨nofun, fun _ => ⟨rfl, rfl⟩, nofun⟩

theorem statusLegal_succeeded (st : Status) : StatusLegal st.succeeded := ⟨nofun, fun _ => ⟨rfl, rfl⟩, nofun⟩

theorem statusLegal_failed (st : Status) (e : CmdError) : StatusLegal (st.failed e) :=
  ⟨nofun, nofun, fun _ => ⟨rfl, e, rfl, rfl⟩⟩

theorem statusLegal_hostChange {s t : State} (h : HostChange s t) (hs : StatusLegal s.status) : StatusLegal t.status := by
  cases h with
  | accepted => exact statusLegal_accepted
  | wasReset => exact statusLegal_atReset
  | replied | nothing | busError | dropped | configured | stored | hazard => exact hs

theorem mode_number_lt (mode : Mode) : mode.number < 4 := by
  cases mode <;> decide

theorem ofNat_mode_number_toNat (mode : Mode) : (BitVec.ofNat 32 mode.number).toNat = mode.number := by
  cases mode <;> rfl

theorem packMeta_info_toNat (L : ConfigRegs) (mode : Mode) : (packMeta L mode).info.toNat = mode.number :=
  ofNat_mode_number_toNat mode

/-- A packing command reports 8 for colour or the number of its mode (10_state.md R40). -/
theorem packed_info_legal {i : Instr} {n : Nat} {L : ConfigRegs} {m : Memory} {e : Effect} {q : PackedMeta}
    (h : commandResult i n L m = .ok e) (hq : e.packed = some q) : q.info = 8 ∨ q.info.toNat < 4 := by
  have hcolor : (colorMeta L).info = 8 ∨ (colorMeta L).info.toNat < 4 := .inl rfl
  have hmode (mode : Mode) : (packMeta L mode).info = 8 ∨ (packMeta L mode).info.toNat < 4 :=
    .inr (packMeta_info_toNat L mode ▸ mode_number_lt mode)
  cases i with
  | packColor => obtain ⟨-, rfl⟩ := packColor_ok h; cases hq; exact hcolor
  | pack => obtain ⟨mode, -, -, rfl⟩ := pack_ok h; cases hq; exact hmode mode
  | generate =>
    obtain ⟨mode, -, -, rfl⟩ := generate_ok h
    cases hq
    unfold generateMeta
    split
    · exact hcolor
    · exact hmode mode
  | binarize => obtain ⟨-, rfl⟩ := binarize_ok h; cases hq
  | formatRaw => obtain ⟨-, rfl⟩ := formatRaw_ok h; cases hq
  | formatHex => obtain ⟨-, rfl⟩ := formatHex_ok h; cases hq
  | formatHexText => obtain ⟨-, rfl⟩ := formatHexText_ok h; cases hq
  | size => cases size_ok h; cases hq
  | preview => obtain ⟨-, rfl⟩ := preview_ok h; cases hq

theorem infoLegal_finishOk {s : State} {i : Instr} {e : Effect} (hs : InfoLegal s)
    (h : commandResult i s.params.memBytes s.latched s.buf = .ok e) : InfoLegal (finishOk s e) := by
  unfold InfoLegal
  rw [finishOk_res, writeResults_info]
  cases hq : e.packed with
  | none => exact hs
  | some q => exact packed_info_legal h hq

theorem info_atReset_toNat_lt : ResultRegs.atReset.info.toNat < 4 := by decide

theorem infoLegal_hostChange {s t : State} (h : HostChange s t) (hs : InfoLegal s) : InfoLegal t := by
  cases h with
  | wasReset => exact .inr info_atReset_toNat_lt
  | replied | nothing | busError | accepted | dropped | configured | stored | hazard => exact hs

/-- MEM_BYTES is one more than a 32-bit number (00_scope.md R6). -/
theorem memBytes_wf : MemBytes.wf Config.memBytes = true :=
  (Bool.and_eq_true _ _).mpr
    ⟨decide_eq_true (Nat.le_add_left 1 _), decide_eq_true (Nat.succ_le_of_lt Config.memBytesLessOne.isLt)⟩

end Sys2Proof.Machine
end

section
/-! The statements about what every step keeps, and that the reset state meets them. -/

namespace Sys2Proof.Machine

/-- Settles O56: writes keep the rising order, and every address written, by a command, the host or a reset, lies in BUF. -/
theorem memoryStaysLegal : Obligations.MemoryStaysLegal := fun s _ hs =>
  step_keeps (P := fun u => MemoryLegal u ∧ u.params = s.params)
    (fun h hu => ⟨memoryLegal_finishOk hu.1 h, hu.2⟩) (fun _ hu => hu) (fun _ hu => hu)
    (fun h hu => ⟨memoryLegal_hostChange h hu.1, (params_hostChange h).trans hu.2⟩) ⟨hs, rfl⟩

/-- Settles O57: a completion clears BUSY with the in-flight command, and only an acceptance sets them, with CMD. -/
theorem busyStaysMatched : Obligations.BusyStaysMatched := fun _ _ =>
  step_keeps (fun _ _ => ⟨rfl, nofun⟩) (fun _ _ => ⟨rfl, nofun⟩) busyMatches_turn busyMatches_hostChange

/-- Settles O58: host writes are masked, and the latch is a copy of the live registers. -/
theorem reservedBitsStayClear : Obligations.ReservedBitsStayClear := fun _ _ =>
  step_keeps (fun _ hu => ⟨hu.1, nofun⟩) (fun _ hu => ⟨hu.1, nofun⟩) reservedLegal_turn reservedLegal_hostChange

/-- Settles O59: each event that writes STATUS gives a legal one, and only a packing command writes RES_INFO. -/
theorem statusAndInfoStayLegal : Obligations.StatusAndInfoStayLegal := fun _ _ hstatus hinfo =>
  step_keeps (P := fun u => StatusLegal u.status ∧ InfoLegal u)
    (fun h hu => ⟨statusLegal_succeeded _, infoLegal_finishOk hu.2 h⟩)
    (fun e hu => ⟨statusLegal_failed _ e, hu.2⟩) (fun _ hu => hu)
    (fun h hu => ⟨statusLegal_hostChange h hu.1, infoLegal_hostChange h hu.2⟩) ⟨hstatus, hinfo⟩

/-- Settles O60: each part of the reset state by the lemma of its invariant, and MEM_BYTES by `memBytes_wf`. -/
theorem resetMeetsTheInvariants : Obligations.ResetMeetsTheInvariants :=
  ⟨⟨reset_memory_wf, rfl⟩, ⟨rfl, nofun⟩, ⟨reservedClear_atReset, nofun⟩, statusLegal_atReset,
    .inr info_atReset_toNat_lt, ⟨rfl, rfl⟩, memBytes_wf⟩

end Sys2Proof.Machine
end

section
/-! SUPPORT. Which of its three parts a step is (60_exceptions.md R155, 10_state.md R44, 20_memory.md R55), and a run whose host
is silent (70_reset_and_hazards.md R169). -/

namespace Sys2Proof.Machine

/-! ### The parts of a step -/

/-- BUS_ERROR is answered before HAZARD (log entry 6). -/
theorem stickyFault_eq_some {s : State} (h : ¬FaultFree s) :
    stickyFault s = some (if s.faults.busError then .busError else .hazard) := by
  cases hb : s.faults.busError <;> cases hz : s.faults.hazard <;> simp_all [stickyFault, FaultFree]

theorem step_of_recordedFault {s : State} (h : ¬FaultFree s) :
    step s = .fault (if s.faults.busError then .busError else .hazard) := by
  simp only [step, stickyFault_eq_some h]

theorem step_of_due {s : State} {c : Inflight} (hfree : FaultFree s) (hc : s.inflight = some c) (hd : c.delay = 0) :
    step s = complete c s := by
  simp only [step, (stickyFault_none_iff s).2 hfree, dueCommand_of hc hd]

theorem dueCommand_eq_none {s : State} (h : ∀ c, s.inflight = some c → c.delay ≠ 0) : dueCommand s = none :=
  Option.eq_none_iff_forall_ne_some.2 fun c hc => h c (dueCommand_some hc).1 (dueCommand_some hc).2

theorem step_of_not_due {s : State} (hfree : FaultFree s) (h : ∀ c, s.inflight = some c → c.delay ≠ 0) :
    step s = hostTurn s := by
  simp only [step, (stickyFault_none_iff s).2 hfree, dueCommand_eq_none h]

/-! ### The host's turn -/

theorem hostTurn_of_nil {s : State} (h : s.host.todo = []) : hostTurn s = .next (tick s) := by
  simp only [hostTurn, h]

theorem hostTurn_of_cons {s : State} {op : HostOp} {rest : List HostOp} (h : s.host.todo = op :: rest) :
    hostTurn s = hostPerform op (tick (issued s rest)) := by
  simp only [hostTurn, h]

theorem tick_of_idle {s : State} (h : s.inflight = none) : tick s = s := by
  obtain ⟨_, _, _, _, _, inflight, _, _, _, _⟩ := s
  cases h
  rfl

theorem tick_inflight_of_some {s : State} {c : Inflight} (h : s.inflight = some c) :
    (tick s).inflight = some { c with delay := c.delay - 1 } := by
  rw [tick_inflight, h, Option.map_some]

/-! ### A silent host -/

/-- One step per turn of the delay, and then the completion, which the turns have left as it was. -/
theorem core_run_until_complete {d : Nat} {s : State} {c : Inflight} (hd : c.delay = d) (hfree : FaultFree s)
    (hc : s.inflight = some c) (htodo : s.host.todo = []) :
    core.run (d + 1) s = complete c { s with inflight := some { c with delay := 0 } } := by
  induction d generalizing s c with
  | zero =>
    have hs : { s with inflight := some { c with delay := 0 } } = s := by rw [← hd, ← hc]
    rw [core_run_one, step_of_due hfree hc hd, hs]
  | succ d ih =>
    have hwait : ∀ c', s.inflight = some c' → c'.delay ≠ 0 := by
      intro c' hc'
      cases hc.symm.trans hc'
      omega
    rw [core_run_next (d + 1) ((step_of_not_due hfree hwait).trans (hostTurn_of_nil htodo)),
      ih (s := tick s) (c := { c with delay := c.delay - 1 }) (Nat.sub_eq_of_eq_add hd) hfree
        (tick_inflight_of_some hc) htodo]
    rfl

end Sys2Proof.Machine
end

section
/-! The statements about the step (60_exceptions.md R148, R158; 10_state.md R44; 70_reset_and_hazards.md R169). -/

namespace Sys2Proof.Machine

/-- Settles O4: a due command is the step's completion, and its word decides that. -/
theorem stepRunsTheDecodedCommand : Obligations.StepRunsTheDecodedCommand := by
  intro s c hfree hc hd
  have hstep := step_of_due hfree hc hd
  exact ⟨hstep, fun i hi => hstep.trans (complete_of_decodeWord_ok s hi)⟩

/-- Settles O5: with nothing due the step is the host's turn, its operation issued and the delay one less. -/
theorem stepElseRunsTheHost : Obligations.StepElseRunsTheHost :=
  fun _ _ _ hfree hwait htodo => (step_of_not_due hfree hwait).trans (hostTurn_of_cons htodo)

/-- Settles O6: the host's turn is empty, and there is no delay to count down. -/
theorem idleHoldsAllState : Obligations.IdleHoldsAllState := by
  intro s hfree hidle htodo
  rw [step_of_not_due hfree (by simp [hidle]), hostTurn_of_nil htodo, tick_of_idle hidle]

/-- Settles O7, by `core_run_until_complete`. -/
theorem acceptedCommandCompletes : Obligations.AcceptedCommandCompletes :=
  fun _ _ _ hfree hc htodo hi => (core_run_until_complete rfl hfree hc htodo).trans (complete_of_decodeWord_ok _ hi)

end Sys2Proof.Machine
end

section
/-! SUPPORT. The frame of a completion (10_state.md R39, R44): what no command writes, which result registers each command
writes, and that it writes no byte outside its regions (20_memory.md R58). -/

namespace Sys2Proof.Machine

/-- A completion writes BUF, the result registers, STATUS and the in-flight command, and nothing else of the state. -/
theorem exec_frame {i : Instr} {s t : State} (h : exec i s = .next t) :
    t = { s with buf := t.buf, res := t.res, status := t.status, inflight := none } := by
  obtain ⟨e, -, rfl⟩ | ⟨e, -, rfl⟩ := exec_next h <;> rfl

/-- The result registers after a completion: as before, or written by the effect of the result. -/
theorem exec_res {i : Instr} {s t : State} (h : exec i s = .next t) :
    t.res = s.res ∨
      ∃ e, commandResult i s.params.memBytes s.latched s.buf = .ok e ∧ t.res = writeResults s.res e := by
  obtain ⟨e, he, rfl⟩ | ⟨e, -, rfl⟩ := exec_next h
  · exact .inr ⟨e, he, rfl⟩
  · exact .inl rfl

theorem writeResults_none {r : ResultRegs} {e : Effect} (hp : e.packed = none) (ht : e.txtLen = none)
    (hz : e.size = none) : writeResults r e = r := by
  simp only [writeResults, hp, ht, hz, writePacked_none, writeIfAny_none]

theorem writeResults_txtLen_only {r : ResultRegs} {e : Effect} (hp : e.packed = none) (hz : e.size = none) :
    writeResults r e = { r with txtLen := (writeResults r e).txtLen } := by
  simp only [writeResults, hp, hz, writePacked_none, writeIfAny_none]

theorem writeResults_size_only {r : ResultRegs} {e : Effect} (hp : e.packed = none) (ht : e.txtLen = none) :
    writeResults r e = { r with size := (writeResults r e).size } := by
  simp only [writeResults, hp, ht, writePacked_none, writeIfAny_none]

/-- The formatter commands and PREVIEW report a text length alone (10_state.md R39). -/
theorem text_command_effect {i : Instr} {n : Nat} {L : ConfigRegs} {m : Memory} {e : Effect}
    (hi : i ∈ [Instr.formatRaw, .formatHex, .formatHexText, .preview]) (h : commandResult i n L m = .ok e) :
    e.packed = none ∧ e.size = none := by
  fin_cases hi
  · obtain ⟨-, rfl⟩ := formatRaw_ok h; exact ⟨rfl, rfl⟩
  · obtain ⟨-, rfl⟩ := formatHex_ok h; exact ⟨rfl, rfl⟩
  · obtain ⟨-, rfl⟩ := formatHexText_ok h; exact ⟨rfl, rfl⟩
  · obtain ⟨-, rfl⟩ := preview_ok h; exact ⟨rfl, rfl⟩

/-- PACK and PACK_COLOR report the metadata alone (10_state.md R39). -/
theorem packing_command_effect {i : Instr} {n : Nat} {L : ConfigRegs} {m : Memory} {e : Effect}
    (hi : i ∈ [Instr.pack, .packColor]) (h : commandResult i n L m = .ok e) : e.txtLen = none ∧ e.size = none := by
  fin_cases hi
  · obtain ⟨_, -, -, rfl⟩ := pack_ok h; exact ⟨rfl, rfl⟩
  · obtain ⟨-, rfl⟩ := packColor_ok h; exact ⟨rfl, rfl⟩

theorem memRead_exec_outside {i : Instr} {s t : State} {a : Nat} (h : exec i s = .next t)
    (ha : OutsideAll (writeRegions i s.latched) a) : memRead t.buf a = memRead s.buf a := by
  obtain ⟨e, he, rfl⟩ | ⟨e, -, rfl⟩ := exec_next h
  · refine memRead_memWriteAll_other _ _ fun c hc hca => ?_
    obtain ⟨r, hr, hin⟩ := writes_in_regions he hc
    exact ha r hr (hca ▸ hin)
  · rfl

end Sys2Proof.Machine
end

section
/-! The statements about every command (10_state.md R39, R42, R44; 30_encoding.md R75). -/

namespace Sys2Proof.Machine

/-- Settles O25: both ends of a command, `finishOk` and `raiseError`, write these four. -/
theorem everyCompletionEndsTheCommand : Obligations.EveryCompletionEndsTheCommand := by
  intro i s
  rw [exec_eq]
  cases commandResult i s.params.memBytes s.latched s.buf with
  | ok e => exact ⟨_, completeWith_ok s e, rfl, rfl, rfl, rfl⟩
  | error e => exact ⟨_, completeWith_error s e, rfl, rfl, rfl, rfl⟩

/-- Settles O27, by `exec_frame`. -/
theorem commandsLeaveOtherRegisters : Obligations.CommandsLeaveOtherRegisters := by
  intro i s t h
  rw [exec_frame h]
  exact ⟨rfl, rfl, rfl, rfl, rfl, rfl⟩

/-- Settles O28: an error writes no result register, and the effect of each command says which ones a success writes. -/
theorem commandsLeaveOtherResults : Obligations.CommandsLeaveOtherResults := by
  intro i s t h
  obtain hres | ⟨e, he, hres⟩ := exec_res h
  · simp [hres]
  · rw [hres]
    refine ⟨?_, fun hi => ?_, ?_, fun hi => ?_⟩
    · rintro rfl
      obtain ⟨-, rfl⟩ := binarize_ok he
      exact writeResults_none rfl rfl rfl
    · obtain ⟨hp, hz⟩ := text_command_effect hi he
      exact writeResults_txtLen_only hp hz
    · rintro rfl
      cases size_ok he
      exact writeResults_size_only rfl rfl
    · obtain ⟨ht, hz⟩ := packing_command_effect hi he
      simp [ht, hz]

/-- Settles O29: an error writes no byte, and a success writes inside its regions. -/
theorem commandsLeaveOtherBytes : Obligations.CommandsLeaveOtherBytes :=
  fun _ _ _ _ h ha => memRead_exec_outside h ha

/-- Settles O10: the latch, MEM_BYTES and BUF are the same, so the result is, and completing it leaves the live registers. -/
theorem inflightCommandReadsOnlyTheLatch : Obligations.InflightCommandReadsOnlyTheLatch := by
  intro i s c live hc
  have hlatch : State.latched { s with cfg := live } = s.latched :=
    (latched_of_inflight (s := { s with cfg := live }) hc).trans (latched_of_inflight hc).symm
  rw [exec_eq, exec_eq, hlatch]
  cases commandResult i s.params.memBytes s.latched s.buf <;> exact ⟨_, rfl, rfl⟩

end Sys2Proof.Machine
end

section
/-! SUPPORT. The recorded faults under a host operation (60_exceptions.md R155), and what an address reads as after a list of
writes, those of a reset among them (70_reset_and_hazards.md R161). -/

namespace Sys2Proof.Machine

/-- A host operation records faults and clears none (60_exceptions.md R155). -/
theorem faults_hostChange {s t : State} (h : HostChange s t) :
    (s.faults.busError = true → t.faults.busError = true) ∧ (s.faults.hazard = true → t.faults.hazard = true) := by
  cases h with
  | busError => exact ⟨fun _ => rfl, id⟩
  | hazard => exact ⟨id, fun _ => rfl⟩
  | replied | nothing | accepted | dropped | configured | stored | wasReset => exact ⟨id, id⟩

theorem not_faultFree_of_hazard {s : State} (h : s.faults.hazard = true) : ¬FaultFree s := by
  simp [FaultFree, h]

/-- What an address reads as after a list of writes that has it: the byte of its last write, whatever it held before. -/
theorem exists_lastWrite {cs : List Host.Cell} {a : Nat} (h : ∃ c ∈ cs, c.1 = a) :
    ∃ c ∈ cs, c.1 = a ∧ ∀ m, memRead (memWriteAll m cs) a = c.2 := by
  induction cs with
  | nil => simp at h
  | cons c cs ih =>
    by_cases hlater : ∃ d ∈ cs, d.1 = a
    · obtain ⟨d, hd, hda, hread⟩ := ih hlater
      exact ⟨d, List.mem_cons_of_mem c hd, hda, fun m => hread _⟩
    · have hca : c.1 = a := by simpa [hlater] using h
      refine ⟨c, List.mem_cons_self, hca, fun m => ?_⟩
      rw [memWriteAll_cons, memRead_memWriteAll_other _ _ fun d hd hda => hlater ⟨d, hd, hda⟩, ← hca,
        memRead_memWrite_same]

/-- Every address of a region in flight that exists in BUF is drawn at a reset. -/
theorem exists_resetCell {n draw : Nat} {rs : List Region} {a : Nat} (h : anyContains rs a = true) (ha : a < n) :
    ∃ c ∈ resetCells n draw rs, c.1 = a := by
  obtain ⟨r, hr, hra⟩ := List.any_eq_true.1 h
  obtain ⟨hlo, hhi⟩ := (contains_iff r a).1 hra
  refine ⟨(a, Config.resetByte draw a), ?_, rfl⟩
  simp only [resetCells, regionAddrs, List.mem_flatMap, List.mem_map, List.mem_range]
  exact ⟨r, hr, a, ⟨a - r.base, by omega, by omega⟩, rfl⟩

theorem inWriteRegion_of_inflight {s : State} {c : Inflight} (h : s.inflight = some c) (a : Nat) :
    inWriteRegion s a = anyContains (inflightWrites c) a := by
  simp only [inWriteRegion, h]

theorem inWriteRegion_of_idle {s : State} (h : s.inflight = none) (a : Nat) : inWriteRegion s a = false := by
  simp only [inWriteRegion, h]

theorem memRead_resetBuf_outside {s : State} {a : Nat} (h : inWriteRegion s a = false) :
    memRead (resetBuf s) a = memRead s.buf a := by
  unfold resetBuf
  cases hc : s.inflight with
  | none => rfl
  | some c =>
    rw [inWriteRegion_of_inflight hc] at h
    refine memRead_memWriteAll_other _ _ fun d hd hda => ?_
    obtain ⟨-, hin, -⟩ := resetCells_addr hd
    rw [hda, h] at hin
    cases hin

theorem memRead_resetBuf_inside {s : State} {a : Nat} (h : inWriteRegion s a = true) (ha : a < s.params.memBytes) :
    memRead (resetBuf s) a = Config.resetByte s.draws a := by
  unfold resetBuf
  cases hc : s.inflight with
  | none => rw [inWriteRegion_of_idle hc] at h; cases h
  | some c =>
    rw [inWriteRegion_of_inflight hc] at h
    obtain ⟨d, hd, hda, hread⟩ := exists_lastWrite (exists_resetCell h ha)
    obtain ⟨-, -, hv⟩ := resetCells_addr hd
    exact (hread s.buf).trans (hda ▸ hv)

/-- After the reset input every register reads as after power-on (70_reset_and_hazards.md R161). -/
theorem readReg_resetBlock (s : State) (r : Reg) : readReg (resetBlock s) r = readReg State.reset r := by
  cases r <;> rfl

end Sys2Proof.Machine
end

section
/-! The statements about recorded faults and the reset input (60_exceptions.md R155, 70_reset_and_hazards.md R161). -/

namespace Sys2Proof.Machine

/-- Settles O22: by what a host operation and a completion can do, and by the step's first test. -/
theorem recordedFaultsAreSticky : Obligations.RecordedFaultsAreSticky := by
  refine ⟨fun op s t h => faults_hostChange (hostPerform_change h), fun i s t h => ?_, fun s t h => (step_cases h).1,
    fun s h => step_of_recordedFault h⟩
  rw [exec_frame h]

/-- Settles O24: the cells a reset writes are those of the write regions in flight that exist in BUF. -/
theorem resetInput : Obligations.ResetInput := fun s =>
  ⟨resetBlock s, rfl, fun r => (readReg_resetBlock s r).trans (readReg_reset r), rfl, rfl,
    fun _ h => memRead_resetBuf_outside h, fun _ h ha => memRead_resetBuf_inside h ha⟩

end Sys2Proof.Machine
end

section
/-! SUPPORT. The read-only and the unlisted offsets of the register window (10_state.md R22), the fields of STATUS and of a CFG
word (10_state.md R24, R29), and the modes by number (10_state.md R30). -/

namespace Sys2Proof.Machine

/-! ### Offsets -/

theorem readOnly_of_offset {o : BitVec 8} (haligned : o.toNat % 4 = 0)
    (ho : o.toNat = 0x04 ∨ (0x38 ≤ o.toNat ∧ o.toNat ≤ 0x54)) : ∃ r ∈ readOnlyRegisters, r.offset = o := by
  revert o
  decide

theorem regAt_unlisted {o : BitVec 8} (ho : 0x58 ≤ o.toNat) : regAt o = none := by
  revert o
  decide

theorem regWrite_unlisted (s : State) {o : BitVec 8} (v : Word) (haligned : o.toNat % 4 = 0) (ho : 0x58 ≤ o.toNat) :
    regWrite s o 32 v = s := by
  simp [regWrite, (regAccess_wf_iff o 32).2 ⟨rfl, haligned⟩, writeOffset, regAt_unlisted ho]

theorem regRead_unlisted (s : State) {o : BitVec 8} (haligned : o.toNat % 4 = 0) (ho : 0x58 ≤ o.toNat) :
    regRead s o 32 = reply s 0 := by
  simp [regRead, (regAccess_wf_iff o 32).2 ⟨rfl, haligned⟩, readOffset, regAt_unlisted ho]

/-! ### STATUS -/

/-- STATUS above its four flags (10_state.md R24). -/
theorem toWord_getLsbD_add_four (st : Status) (k : Nat) :
    st.toWord.getLsbD (k + 4) = if k < 4 then st.errCode.getLsbD k else st.errDetail.getLsbD (k - 4) := by
  change (0#16 ++ st.errDetail ++ st.errCode ++ flagBit st.overrun ++ flagBit st.err ++ flagBit st.done ++
    flagBit st.busy).getLsbD (k + 4) = _
  simp only [BitVec.getLsbD_append, BitVec.getLsbD_zero]
  by_cases hdetail : k - 4 < 8
  · simp [hdetail]
  · have hhigh : st.errDetail.getLsbD (k - 4) = false := BitVec.getLsbD_of_ge _ _ (Nat.le_of_not_lt hdetail)
    by_cases hcode : k < 4 <;> simp [hdetail, hhigh, hcode]

theorem toWord_getLsbD_flags (st : Status) :
    st.toWord.getLsbD 0 = st.busy ∧ st.toWord.getLsbD 1 = st.done ∧ st.toWord.getLsbD 2 = st.err ∧
      st.toWord.getLsbD 3 = st.overrun := by
  obtain ⟨busy, done, err, overrun, _, _⟩ := st
  simp only [Status.toWord, flagBit, BitVec.getLsbD_append]
  simp

theorem toWord_errCode (st : Status) : st.toWord.extractLsb' 4 4 = st.errCode := by
  refine BitVec.eq_of_getLsbD_eq fun k hk => ?_
  simp [Nat.add_comm 4 k, toWord_getLsbD_add_four, hk]

theorem toWord_errDetail (st : Status) : st.toWord.extractLsb' 8 8 = st.errDetail := by
  refine BitVec.eq_of_getLsbD_eq fun k hk => ?_
  rw [BitVec.getLsbD_extractLsb', show 8 + k = k + 4 + 4 by omega, toWord_getLsbD_add_four]
  simp [hk]

theorem toWord_high (st : Status) : st.toWord.extractLsb' 16 16 = 0 := by
  refine BitVec.eq_of_getLsbD_eq fun k hk => ?_
  rw [BitVec.getLsbD_extractLsb', show 16 + k = k + 12 + 4 by omega, toWord_getLsbD_add_four]
  simp

/-! ### CONFIG -/

/-- The five fields of a CFG word lie in bits 6:0, which CONFIG stores (30_encoding.md R79, 10_state.md R29). -/
theorem cfgWord_fields (i r o c : Bool) (m : BitVec 3) :
    (cfgWord i r o c m &&& configMask).getLsbD 0 = i ∧ (cfgWord i r o c m &&& configMask).getLsbD 1 = r ∧
    (cfgWord i r o c m &&& configMask).getLsbD 2 = o ∧ (cfgWord i r o c m &&& configMask).getLsbD 3 = c ∧
    (cfgWord i r o c m &&& configMask).extractLsb' 4 3 = m := by
  revert i r o c m
  decide

theorem modeOfField_eq (m : BitVec 3) :
    modeOfField m = if m = 0 then some .row else if m = 1 then some .col else if m = 2 then some .colRow
      else if m = 3 then some .rowCol else none := by
  revert m
  decide

end Sys2Proof.Machine
end

section
/-! The statements about the register window (10_state.md R22, R24, R29, R30; 20_memory.md R60; 30_encoding.md R71, R79). -/

namespace Sys2Proof.Machine

/-- Settles O1: the nine words are the encodings of the nine commands. -/
theorem nineWordsDecode : Obligations.NineWordsDecode :=
  ⟨decodeWord_encode .binarize, decodeWord_encode .packColor, decodeWord_encode .pack, decodeWord_encode .formatRaw,
    decodeWord_encode .formatHex, decodeWord_encode .formatHexText, decodeWord_encode .size, decodeWord_encode .preview,
    decodeWord_encode .generate⟩

/-- Settles O12: the flags are the four low bits, and the two fields stand above them, with nothing above. -/
theorem statusWordLayout : Obligations.StatusWordLayout := fun st =>
  have ⟨hbusy, hdone, herr, hoverrun⟩ := toWord_getLsbD_flags st
  ⟨hbusy, hdone, herr, hoverrun, toWord_errCode st, toWord_errDetail st, toWord_high st⟩

/-- Settles O14: such an offset is that of a read-only register, or no register's. -/
theorem readOnlyAndUnlistedOffsets : Obligations.ReadOnlyAndUnlistedOffsets := by
  refine fun s o v haligned => ⟨fun ho => ?_, fun ho => ⟨?_, ?_⟩⟩
  · obtain ⟨r, hr, rfl⟩ := readOnly_of_offset haligned ho
    rw [hostPerform_writeReg_offset, writeReg_readOnly hr]
  · rw [hostPerform, regWrite_unlisted s v haligned ho]
  · rw [hostPerform, regRead_unlisted s haligned ho, reply]

/-- Settles O15, by `hostPerform_readReg_offset`. -/
theorem registerReadsReturnCurrentValues : Obligations.RegisterReadsReturnCurrentValues := hostPerform_readReg_offset

/-- Settles O16: the write stores the CFG word in CONFIG, and each field is its bits of CONFIG. -/
theorem cfgLineSetsEveryField : Obligations.CfgLineSetsEveryField := by
  intro s i r o c m
  obtain ⟨hi, hr, ho, hc, hm⟩ := cfgWord_fields i r o c m
  exact ⟨writeReg s .config (cfgWord i r o c m), hostPerform_writeReg_offset s .config _, hi, hr, ho, hc, hm,
    (congrArg modeOfField hm).trans (modeOfField_eq m)⟩

/-- Settles O17: the two cases of `waitPoll`. -/
theorem waitPollsUntilDone : Obligations.WaitPollsUntilDone := by
  refine fun s => ⟨fun hdone => congrArg Host.Outcome.next (if_pos hdone),
    fun hdone => congrArg Host.Outcome.next (if_neg (Bool.eq_false_iff.1 hdone))⟩

end Sys2Proof.Machine
end

section
/-! SUPPORT. The host's accesses inside the regions of a command in flight (20_memory.md R60, R61), and its accesses by bus address
(20_memory.md R57). -/

namespace Sys2Proof.Machine

theorem bufRead_inside_writeRegion {s : State} {a : Nat} (ha : a < s.params.memBytes) (h : inWriteRegion s a = true) :
    bufRead s a 8 = reply { s with draws := s.draws + 1 } ((Config.busyReadByte s.draws).setWidth 32) := by
  simp [bufRead, (bufAccess_wf_iff _ _ _).2 ⟨rfl, ha⟩, h]

theorem bufWrite_inside_region {s : State} {a : Nat} (v : Word) (ha : a < s.params.memBytes)
    (h : inAnyRegion s a = true) : bufWrite s a 8 v = recordHazard s a := by
  simp [bufWrite, (bufAccess_wf_iff _ _ _).2 ⟨rfl, ha⟩, h]

theorem inRegWindow_iff (p : Params) (a : Nat) : inRegWindow p a = true ↔ p.regBase ≤ a ∧ a < p.regBase + 256 := by
  simp [inRegWindow]

theorem inBufWindow_iff (p : Params) (a : Nat) :
    inBufWindow p a = true ↔ p.bufBase ≤ a ∧ a < p.bufBase + p.memBytes := by
  simp [inBufWindow]

theorem busAccess_reg {s : State} {x : Nat} (width : Nat) (d : Option Word) (hx : x < 256)
    (hbuf : ¬inBufWindow s.params (s.params.regBase + x) = true) :
    busAccess s (s.params.regBase + x) width d = .next (regAccess s (BitVec.ofNat 8 x) width d) := by
  have hreg : inRegWindow s.params (s.params.regBase + x) = true := (inRegWindow_iff _ _).2 ⟨by omega, by omega⟩
  rw [busAccess, if_pos hreg, if_neg hbuf, Nat.add_sub_cancel_left]

theorem busAccess_buf {s : State} {x : Nat} (width : Nat) (d : Option Word) (hx : x < s.params.memBytes)
    (hreg : ¬inRegWindow s.params (s.params.bufBase + x) = true) :
    busAccess s (s.params.bufBase + x) width d = .next (bufAccess s x width d) := by
  have hbuf : inBufWindow s.params (s.params.bufBase + x) = true := (inBufWindow_iff _ _).2 ⟨by omega, by omega⟩
  rw [busAccess, if_neg hreg, if_pos hbuf, Nat.add_sub_cancel_left]

end Sys2Proof.Machine
end

section
/-! The statements about accesses in flight and by bus address (20_memory.md R57, R60, R61). -/

namespace Sys2Proof.Machine

/-- Settles O19, by `bufRead_inside_writeRegion`. -/
theorem busyReadsAreFreeValues : Obligations.BusyReadsAreFreeValues :=
  fun _ _ ha h => congrArg Host.Outcome.next (bufRead_inside_writeRegion ha h)

/-- Settles O20: the write is `recordHazard`, and a state with a hazard recorded is not fault free. -/
theorem hazardWriteStopsTheRun : Obligations.HazardWriteStopsTheRun := fun s a v ha h =>
  ⟨recordHazard s a, congrArg Host.Outcome.next (bufWrite_inside_region v ha h), rfl,
    step_of_recordedFault (not_faultFree_of_hazard rfl)⟩

/-- Settles O23: outside the other window, the bus access is the access at the offset. -/
theorem busAddressesReachTheWindows : Obligations.BusAddressesReachTheWindows := by
  refine fun s x width v => ⟨fun hx hout => ?_, fun hx hout => ?_⟩
  · rw [← inBufWindow_iff] at hout
    exact ⟨busAccess_reg width none hx hout, busAccess_reg width (some v) hx hout⟩
  · rw [← inRegWindow_iff] at hout
    exact ⟨busAccess_buf width none hx hout, busAccess_buf width (some v) hx hout⟩

end Sys2Proof.Machine
end

section
/-! The statement about the ends of the threshold (40_binarizer.md R88, R89). -/

namespace Sys2Proof.Machine

theorem lumBit_eq (r g b : Byte) (T : Nat) :
    lumBit r g b T = if 299 * r.toNat + 587 * g.toNat + 114 * b.toNat > 1000 * T then 1 else 0 := rfl

/-- The weights add up to 1000, so a gray pixel has luminance its value (40_binarizer.md R88). -/
theorem lumBit_gray (v : Byte) (T : Nat) : lumBit v v v T = if v.toNat > T then 1 else 0 := by
  rw [lumBit_eq]
  exact if_congr (by omega) rfl rfl

/-- No luminance is above 255 (40_binarizer.md R89). -/
theorem lumBit_greatest (r g b : Byte) : lumBit r g b 255 = 0 := by
  have hr := r.isLt
  have hg := g.isLt
  have hb := b.isLt
  rw [lumBit_eq, if_neg (by omega)]

/-- Black is the only pixel of luminance 0 (40_binarizer.md R89). -/
theorem lumBit_least (r g b : Byte) : lumBit r g b 0 = if r = 0 ∧ g = 0 ∧ b = 0 then 0 else 1 := by
  rw [lumBit_eq, ← ite_not]
  refine if_congr ?_ rfl rfl
  bv_omega

/-- Settles O33, one lemma for each part. -/
theorem thresholdEnds : Obligations.ThresholdEnds := ⟨lumBit_gray, lumBit_greatest, lumBit_least⟩

end Sys2Proof.Machine
end

section
/-! SUPPORT. The place of a pixel as a row-major number (42_bitmap_sampler.md R101, R107), and when two packings agree
(42_bitmap_sampler.md R110, R111). -/

namespace Sys2Proof.Machine

/-! ### Places -/

theorem rowMajor_inj {W x y x' y' : Nat} (hx : x < W) (hx' : x' < W) (h : y * W + x = y' * W + x') : x = x' ∧ y = y' := by
  have hmod := congrArg (· % W) h
  have hdiv := congrArg (· / W) h
  have hW : 0 < W := Nat.zero_lt_of_lt hx
  simp only [Nat.mul_add_mod', Nat.mod_eq_of_lt hx, Nat.mod_eq_of_lt hx'] at hmod
  simp only [Nat.mul_comm _ W, Nat.mul_add_div hW, Nat.div_eq_of_lt hx, Nat.div_eq_of_lt hx', Nat.add_zero] at hdiv
  exact ⟨hmod, hdiv⟩

theorem div8_lt_ceil8 {n k : Nat} (h : k < n) : k / 8 < ceil8 n := by
  unfold ceil8
  omega

theorem place_off_lt (mode : Mode) (x y W H : Nat) : (place mode x y W H).2 < 8 := by
  cases mode <;> exact Nat.mod_lt _ (by decide)

/-- The byte index of a pixel is the row-major number of its byte in a grid: of rows in ROW, of columns in COL, of bands in
COLROW and ROWCOL (42_bitmap_sampler.md R101). -/
theorem place_pos_lt (mode : Mode) {x y W H : Nat} (hx : x < W) (hy : y < H) :
    (place mode x y W H).1 < mode.packedSize W H := by
  have hx8 := div8_lt_ceil8 hx
  have hy8 := div8_lt_ceil8 hy
  cases mode with
  | row => exact rowMajor_lt hx8 hy
  | col => exact rowMajor_lt hy8 hx
  | colRow => rw [Mode.packedSize, Nat.mul_comm, place, Nat.add_comm]; exact rowMajor_lt hx hy8
  | rowCol => rw [Mode.packedSize, Nat.mul_comm]; exact rowMajor_lt hy hx8

theorem place_inj (mode : Mode) {W H x y x' y' : Nat} (hx : x < W) (hy : y < H) (hx' : x' < W) (hy' : y' < H)
    (h : place mode x y W H = place mode x' y' W H) : x = x' ∧ y = y' := by
  obtain ⟨hpos, hoff⟩ := Prod.mk.injEq .. ▸ h
  cases mode with
  | row =>
    obtain ⟨hdiv, rfl⟩ := rowMajor_inj (div8_lt_ceil8 hx) (div8_lt_ceil8 hx') hpos
    exact ⟨Nat.ext_div_modEq hdiv hoff, rfl⟩
  | col =>
    obtain ⟨hdiv, rfl⟩ := rowMajor_inj (div8_lt_ceil8 hy) (div8_lt_ceil8 hy') hpos
    exact ⟨rfl, Nat.ext_div_modEq hdiv hoff⟩
  | colRow =>
    rw [Nat.add_comm x, Nat.add_comm x'] at hpos
    obtain ⟨rfl, hdiv⟩ := rowMajor_inj hx hx' hpos
    exact ⟨rfl, Nat.ext_div_modEq hdiv hoff⟩
  | rowCol =>
    obtain ⟨rfl, hdiv⟩ := rowMajor_inj hy hy' hpos
    exact ⟨Nat.ext_div_modEq hdiv hoff, rfl⟩

/-! ### The flags of a changed CONFIG -/

theorem invert_toggled (L : ConfigRegs) : { L with config := L.config ^^^ 2 }.invert = L.invert := by
  simp [ConfigRegs.invert]

theorem reverse_toggled (L : ConfigRegs) : { L with config := L.config ^^^ 2 }.reverse = !L.reverse := by
  simp [ConfigRegs.reverse]

theorem invert_set (L : ConfigRegs) : { L with config := L.config ||| 1 }.invert = true := by
  simp [ConfigRegs.invert]

theorem reverse_of_invert_set (L : ConfigRegs) : { L with config := L.config ||| 1 }.reverse = L.reverse := by
  simp [ConfigRegs.reverse]

/-- The two bit orders number the bits from opposite ends (42_bitmap_sampler.md R104). -/
theorem bitNumber_not_eq_iff (rev : Bool) {off bit : Nat} (hoff : off < 8) (hbit : bit < 8) :
    bit = bitNumber (!rev) off ↔ 7 - bit = bitNumber rev off := by
  cases rev <;> simp only [bitNumber, Bool.not_true, Bool.not_false, if_true, Bool.false_eq_true, if_false] <;> omega

theorem pixelValue_complement (v : Byte) : pixelValue true (1 - v) = pixelValue false v := by
  simp only [pixelValue, if_true, Bool.false_eq_true, if_false]
  exact sub_sub_cancel 1 v

/-! ### Equal packings -/

/-- Two packings agree when they have the same size and each pixel owns the same bit and has the same value after polarity. -/
theorem packBytes_congr {L L' : ConfigRegs} {mode mode' : Mode} {m m' : Memory} (hw : L'.w = L.w) (hh : L'.h = L.h)
    (hsize : mode'.packedSize L.w L.h = mode.packedSize L.w L.h)
    (hpixel : ∀ x y, x < L.w → y < L.h → ownedBit L' mode' (x, y) = ownedBit L mode (x, y) ∧
      pixelValue L'.invert (mapByte L' m' x y) = pixelValue L.invert (mapByte L m x y)) :
    packBytes L' mode' m' = packBytes L mode m := by
  rw [packBytes, packBytes, hw, hh, hsize]
  refine List.foldl_ext _ _ _ fun out p hp => ?_
  obtain ⟨hx, hy⟩ := (mem_pixelCoords _ _ p).1 hp
  obtain ⟨hbit, hvalue⟩ := hpixel p.1 p.2 hx hy
  simp only [ownedBit, Prod.mk.injEq] at hbit
  simp only [packPixel, hbit, hvalue]

theorem ceil8_of_le {n : Nat} (h0 : n ≠ 0) (h : n ≤ 8) : ceil8 n = 1 := by
  unfold ceil8
  omega

/-- A row of at most 8 pixels is one byte, so both modes put row y in byte y (42_bitmap_sampler.md R111). -/
theorem place_row_eq_rowCol {x y W H : Nat} (hW : W ≤ 8) (hx : x < W) : place .row x y W H = place .rowCol x y W H := by
  simp only [place, Mode.bytesPerPage, ceil8_of_le (Nat.ne_zero_of_lt hx) hW, Nat.div_eq_of_lt (Nat.lt_of_lt_of_le hx hW),
    Nat.mul_one, Nat.zero_mul, Nat.add_zero, Nat.zero_add]

/-- The same for columns of at most 8 pixels (42_bitmap_sampler.md R111). -/
theorem place_col_eq_colRow {x y W H : Nat} (hH : H ≤ 8) (hy : y < H) : place .col x y W H = place .colRow x y W H := by
  simp only [place, Mode.bytesPerPage, ceil8_of_le (Nat.ne_zero_of_lt hy) hH, Nat.div_eq_of_lt (Nat.lt_of_lt_of_le hy hH),
    Nat.mul_one, Nat.zero_mul, Nat.add_zero]

theorem ownedBit_of_place {L : ConfigRegs} {mode mode' : Mode} {x y : Nat}
    (h : place mode' x y L.w L.h = place mode x y L.w L.h) : ownedBit L mode' (x, y) = ownedBit L mode (x, y) := by
  simp only [ownedBit, h]

end Sys2Proof.Machine
end

section
/-! The laws of the packing (42_bitmap_sampler.md R107, R110, R111). -/

namespace Sys2Proof.Machine

/-- Settles O36: the byte index and the offset of a pixel are the quotient and the remainder of its place. -/
theorem pixelsOwnDistinctBits : Obligations.PixelsOwnDistinctBits := fun mode W H x y _ _ hx hy hx' hy' =>
  ⟨place_pos_lt mode hx hy, place_off_lt mode x y W H, place_inj mode hx hy hx' hy'⟩

/-- Settles O37: bit k of a byte is owned under one order by the pixels that own bit 7 - k under the other. -/
theorem bitOrderSymmetry : Obligations.BitOrderSymmetry := by
  rintro L _ mode m j bit rfl hj hbit
  rw [Bool.eq_iff_iff, packBytes_bit { L with config := L.config ^^^ 2 } mode m hj hbit,
    packBytes_bit L mode m hj (by omega)]
  refine exists_congr fun x => exists_congr fun y => and_congr_right' (and_congr_right' ?_)
  rw [ownedBit_eq_iff, ownedBit_eq_iff, reverse_toggled, invert_toggled,
    bitNumber_not_eq_iff L.reverse (place_off_lt mode x y _ _) hbit]
  rfl

/-- Settles O38: the inversion undoes the complement, pixel by pixel. -/
theorem polarityIsInvolutive : Obligations.PolarityIsInvolutive := by
  rintro L _ mode m m' hinv rfl hmap
  refine packBytes_congr rfl rfl rfl fun x y hx hy => ⟨?_, ?_⟩
  · rw [ownedBit, reverse_of_invert_set]
    rfl
  · rw [invert_set, (hmap x y hx hy).2, pixelValue_complement, hinv]

/-- Settles O39: the sizes are the same, and every pixel has the same place. -/
theorem coincidingModes : Obligations.CoincidingModes := fun _ _ _ _ =>
  ⟨fun hW => packBytes_congr rfl rfl rfl fun _ _ hx _ => ⟨ownedBit_of_place (place_row_eq_rowCol hW hx), rfl⟩,
    fun hH => packBytes_congr rfl rfl rfl fun _ _ _ hy => ⟨ownedBit_of_place (place_col_eq_colRow hH hy), rfl⟩⟩

end Sys2Proof.Machine
end

section
/-! SUPPORT. A failed check of a command's list is its error completion (60_exceptions.md R149, R150). -/

namespace Sys2Proof.Machine

theorem failsWith_of_error {i : Instr} {s : State} {e : CmdError}
    (h : commandResult i s.params.memBytes s.latched s.buf = .error e) : FailsWith i s e.code e.detail :=
  exec_of_error h

theorem failsWith_binarize {s : State} {e : CmdError} (h : binarizeError s.params.memBytes s.latched = some e) :
    FailsWith .binarize s e.code e.detail :=
  failsWith_of_error (by rw [commandResult, binarize, h, checked_some])

theorem failsWith_packColor {s : State} {e : CmdError} (h : packColorError s.params.memBytes s.latched = some e) :
    FailsWith .packColor s e.code e.detail :=
  failsWith_of_error (by rw [commandResult, packColor, h, checked_some])

theorem failsWith_pack {s : State} {mode : Mode} {e : CmdError} (hm : s.latched.mode = some mode)
    (h : packError s.params.memBytes s.latched mode s.buf = some e) : FailsWith .pack s e.code e.detail :=
  failsWith_of_error (by simp only [commandResult, pack, hm, h, checked_some])

theorem failsWith_preview {s : State} {e : CmdError} (h : previewError s.params.memBytes s.latched s.buf = some e) :
    FailsWith .preview s e.code e.detail :=
  failsWith_of_error (by rw [commandResult, preview, h, checked_some])

theorem failsWith_generate {s : State} {mode : Mode} {e : CmdError} (hm : s.latched.mode = some mode)
    (h : generateError s.params.memBytes s.latched = some e) : FailsWith .generate s e.code e.detail :=
  failsWith_of_error (by simp only [commandResult, generate, hm, h, checked_some])

/-- MODE 4 to 7 name no mode (10_state.md R30). -/
theorem mode_eq_none_iff (L : ConfigRegs) : L.mode = none ↔ 4 ≤ L.modeField.toNat := by
  unfold ConfigRegs.mode
  generalize L.modeField = b
  revert b
  decide

theorem exists_mode {L : ConfigRegs} (h : L.modeField.toNat < 4) : ∃ mode, L.mode = some mode :=
  Option.ne_none_iff_exists'.1 fun hnone => Nat.not_le_of_lt h ((mode_eq_none_iff L).1 hnone)

theorem failsWith_pack_unknownMode {s : State} (h : 4 ≤ s.latched.modeField.toNat) : FailsWith .pack s 2 0x01 :=
  failsWith_of_error (e := .unknownMode) (by simp only [commandResult, pack, (mode_eq_none_iff _).2 h])

theorem failsWith_generate_unknownMode {s : State} (h : 4 ≤ s.latched.modeField.toNat) : FailsWith .generate s 2 0x01 :=
  failsWith_of_error (e := .unknownMode) (by simp only [commandResult, generate, (mode_eq_none_iff _).2 h])

theorem badMapValue_iff (L : ConfigRegs) (m : Memory) :
    badMapValue L m = true ↔ ∃ i, i < L.w * L.h ∧ 1 < (memRead m (L.lmapBase.toNat + i)).toNat := by
  simp [badMapValue]

end Sys2Proof.Machine
end

section
/-! The statements about the order of the checks of BINARIZE, PACK_COLOR, PACK and PREVIEW (60_exceptions.md R149): in each
clause the checks before the failing one pass, so the list answers that one. -/

namespace Sys2Proof.Machine

/-- Settles O49, clause by clause, by `failsWith_binarize`. -/
theorem binarizeCheckOrder : Obligations.BinarizeCheckOrder := by
  refine fun s => ⟨fun hw => ?_, fun hw hh => ?_, fun hw hh hlen => ?_,
    fun hw hh hlen => ⟨fun hpix => ?_, fun hpix => ⟨fun hlmap => ?_, fun hlmap hover => ?_⟩⟩⟩
  · exact failsWith_binarize (e := .zeroWidth) (by simp [binarizeError, hw])
  · exact failsWith_binarize (e := .zeroHeight) (by simp [binarizeError, hw, hh])
  · exact failsWith_binarize (e := .pixLength) (by simp [binarizeError, hw, hh, hlen])
  · exact failsWith_binarize (e := .pixBounds) (by simp [binarizeError, hw, hh, hlen, hpix])
  · exact failsWith_binarize (e := .lmapBounds) (by simp [binarizeError, hw, hh, hlen, hpix, hlmap])
  · exact failsWith_binarize (e := .overlap) (by simp [binarizeError, hw, hh, hlen, hpix, hlmap, hover])

/-- Settles O50, clause by clause, by `failsWith_packColor`. -/
theorem packColorCheckOrder : Obligations.PackColorCheckOrder := by
  rintro s _ rfl
  refine ⟨fun hw => ?_, fun hw hh => ?_, fun hw hh hlen => ?_,
    fun hw hh hlen => ⟨fun hpix => ?_, fun hpix => ⟨fun hout => ?_, fun hout hover => ?_⟩⟩⟩
  · exact failsWith_packColor (e := .zeroWidth) (by simp [packColorError, hw])
  · exact failsWith_packColor (e := .zeroHeight) (by simp [packColorError, hw, hh])
  · exact failsWith_packColor (e := .pixLength) (by simp [packColorError, hw, hh, hlen])
  · exact failsWith_packColor (e := .pixBounds) (by simp [packColorError, hw, hh, hlen, hpix])
  · exact failsWith_packColor (e := .outBounds) (by simp [packColorError, hw, hh, hlen, hpix, hout])
  · exact failsWith_packColor (e := .overlap) (by simp [packColorError, hw, hh, hlen, hpix, hout, hover])

/-- Settles O51, clause by clause, by `failsWith_pack`. -/
theorem packCheckOrder : Obligations.PackCheckOrder := by
  rintro s mode _ rfl
  refine ⟨failsWith_pack_unknownMode, fun hm => ⟨fun hw => ?_, fun hw hh => ?_, fun hw hh => ⟨fun hlmap => ?_,
    fun hlmap => ⟨fun hout => ?_, fun hout => ⟨fun hover => ?_, fun hover hmap => ?_⟩⟩⟩⟩⟩
  · exact failsWith_pack (e := .zeroWidth) hm (by simp [packError, hw])
  · exact failsWith_pack (e := .zeroHeight) hm (by simp [packError, hw, hh])
  · exact failsWith_pack (e := .lmapBounds) hm (by simp [packError, hw, hh, hlmap])
  · exact failsWith_pack (e := .outBounds) hm (by simp [packError, hw, hh, hlmap, hout])
  · exact failsWith_pack (e := .overlap) hm (by simp [packError, hw, hh, hlmap, hout, hover])
  · rw [← badMapValue_iff] at hmap
    exact failsWith_pack (e := .mapValue) hm (by simp [packError, hw, hh, hlmap, hout, hover, hmap])

/-- Settles O53, clause by clause, by `failsWith_preview`. -/
theorem previewCheckOrder : Obligations.PreviewCheckOrder := by
  rintro s _ rfl
  refine ⟨fun hw => ?_, fun hw hh => ?_, fun hw hh => ⟨fun hlmap => ?_,
    fun hlmap => ⟨fun htxt => ?_, fun htxt => ⟨fun hover => ?_, fun hover hmap => ?_⟩⟩⟩⟩
  · exact failsWith_preview (e := .zeroWidth) (by simp [previewError, hw])
  · exact failsWith_preview (e := .zeroHeight) (by simp [previewError, hw, hh])
  · exact failsWith_preview (e := .lmapBounds) (by simp [previewError, hw, hh, hlmap])
  · exact failsWith_preview (e := .txtBounds) (by simp [previewError, hw, hh, hlmap, htxt])
  · exact failsWith_preview (e := .overlap) (by simp [previewError, hw, hh, hlmap, htxt, hover])
  · rw [← badMapValue_iff] at hmap
    exact failsWith_preview (e := .mapValue) (by simp [previewError, hw, hh, hlmap, htxt, hover, hmap])

end Sys2Proof.Machine
end

section
/-! SUPPORT. The three formatter commands as one: the length and the text of each (43_output_formatter.md R116 to R123), what
one answers and leaves in BUF once its checks pass, and the same for PREVIEW (43_output_formatter.md R126). -/

namespace Sys2Proof.Machine

/-! ### The formatter commands -/

/-- The result of the command in the state is that of a formatter command with this length and this text
(43_output_formatter.md R116): `formats_raw`, `formats_hex` and `formats_hexText`. -/
def Formats (i : Instr) (s : State) (len : Nat) (text : List Byte) : Prop :=
  commandResult i s.params.memBytes s.latched s.buf = formatted s.params.memBytes s.latched len fun _ => text

theorem formats_raw (s : State) : Formats .formatRaw s s.latched.n (sourceBytes s.latched s.buf) := rfl

theorem formats_hex (s : State) : Formats .formatHex s (4 * s.latched.n) (hexTokens (sourceBytes s.latched s.buf)) := rfl

theorem formats_hexText (s : State) :
    Formats .formatHexText s (textLen s.latched.n)
      (hexText s.latched.lineBreak.toNat 0 (sourceBytes s.latched s.buf)) := rfl

/-- What a formatter command does once its checks pass. -/
def formatEffect (L : ConfigRegs) (len : Nat) (text : List Byte) : Effect :=
  { writes := layOut L.txtBase.toNat text, packed := none, txtLen := some (BitVec.ofNat 32 len), size := none }

section
variable {i : Instr} {s : State} {len : Nat} {text : List Byte} (hi : Formats i s len text)
include hi

theorem exec_format_of_no_error (h : formatError s.params.memBytes s.latched len = none) :
    exec i s = .next (finishOk s (formatEffect s.latched len text)) :=
  exec_of_ok (by rw [hi, formatted, h, checked_none, formatEffect])

theorem failsWith_format {e : CmdError} (h : formatError s.params.memBytes s.latched len = some e) :
    FailsWith i s e.code e.detail :=
  failsWith_of_error (by rw [hi, formatted, h, checked_some])

/-- The three errors of a formatter command, in order (43_output_formatter.md R116). -/
theorem format_check_order (hn : s.latched.n ≠ 0) :
    (s.latched.srcRegion.inBounds s.params.memBytes = false → FailsWith i s 3 0x04) ∧
    (s.latched.srcRegion.inBounds s.params.memBytes = true →
      ((s.latched.txtRegion len).inBounds s.params.memBytes = false → FailsWith i s 3 0x05) ∧
      ((s.latched.txtRegion len).inBounds s.params.memBytes = true →
        s.latched.srcRegion.overlaps (s.latched.txtRegion len) = true → FailsWith i s 3 0x06)) := by
  refine ⟨fun hsrc => ?_, fun hsrc => ⟨fun htxt => ?_, fun htxt hover => ?_⟩⟩
  · exact failsWith_format hi (e := .srcBounds) (by simp [formatError, hn, hsrc])
  · exact failsWith_format hi (e := .txtBounds) (by simp [formatError, hn, hsrc, htxt])
  · exact failsWith_format hi (e := .overlap) (by simp [formatError, hn, hsrc, htxt, hover])

/-- With SRC_LEN = 0 there is no check, and with an empty text no write (43_output_formatter.md R116). -/
theorem format_empty (hn : s.latched.n = 0) (hlen : len = 0) (htext : text = []) :
    ∃ t, exec i s = .next t ∧ SucceededStatus s t ∧ t.buf = s.buf ∧ t.res = { s.res with txtLen := 0 } := by
  subst hlen htext
  exact ⟨_, exec_format_of_no_error hi (if_pos hn), succeededStatus_finishOk s _, rfl, rfl⟩

end

/-- The converse of `formatError_none` when there is input. -/
theorem formatError_eq_none {n : Nat} {L : ConfigRegs} {len : Nat} (hsrc : L.srcRegion.inBounds n = true)
    (htxt : (L.txtRegion len).inBounds n = true) (hdisj : L.srcRegion.overlaps (L.txtRegion len) = false) :
    formatError n L len = none := by
  simp [formatError, hsrc, htxt, hdisj]

theorem sourceBytes_of_empty {L : ConfigRegs} (m : Memory) (h : L.n = 0) : sourceBytes L m = [] :=
  List.length_eq_zero_iff.1 (by rw [sourceBytes_length, h])

theorem textLen_of_ne_zero {n : Nat} (h : n ≠ 0) : textLen n = 6 * n - 2 := if_neg h

theorem ofNat_n (L : ConfigRegs) : BitVec.ofNat 32 L.n = L.srcLen := by
  simp [ConfigRegs.n]

/-- A character of the text a formatter command leaves. -/
theorem memRead_formatEffect (s : State) (len : Nat) {text : List Byte} {k : Nat} (hk : k < text.length) :
    memRead (finishOk s (formatEffect s.latched len text)).buf (s.latched.txtBase.toNat + k) = text.getD k 0 :=
  memRead_layOut_getD s.buf _ text hk

/-! ### Characters -/

/-- '0' to '9', 'a' to 'f' (43_output_formatter.md R119, 00_scope.md R12). -/
theorem hexChar_toNat (d : BitVec 4) :
    (hexChar d).toNat = if d.toNat < 10 then 0x30 + d.toNat else 0x61 + (d.toNat - 10) := by
  revert d
  decide

theorem highNibble_toNat (v : Byte) : (v.extractLsb' 4 4).toNat = v.toNat / 16 := by
  rw [BitVec.extractLsb'_toNat, Nat.shiftRight_eq_div_pow]
  omega

theorem lowNibble_toNat (v : Byte) : (v.extractLsb' 0 4).toNat = v.toNat % 16 := by
  rw [BitVec.extractLsb'_toNat, Nat.shiftRight_zero]

theorem separator_getD_zero (B i : Nat) : (separator B i).getD 0 0 = 0x2C := by
  unfold separator
  split <;> rfl

theorem separator_getD_one (B i : Nat) :
    (separator B i).getD 1 0 = if B ≠ 0 ∧ (i + 1) % B = 0 then 0x0A else 0x20 := by
  unfold separator
  split <;> rfl

/-! ### PREVIEW -/

/-- The converse of `previewError_none`. -/
theorem previewError_eq_none {n : Nat} {L : ConfigRegs} {m : Memory} (hw : L.w ≠ 0) (hh : L.h ≠ 0)
    (hlmap : L.lmapRegion.inBounds n = true) (htxt : (L.txtRegion (L.h * (L.w + 1))).inBounds n = true)
    (hdisj : L.lmapRegion.overlaps (L.txtRegion (L.h * (L.w + 1))) = false) (hmap : badMapValue L m = false) :
    previewError n L m = none := by
  simp [previewError, hw, hh, hlmap, htxt, hdisj, hmap]

theorem exec_preview_of_no_error {s : State} (h : previewError s.params.memBytes s.latched s.buf = none) :
    exec .preview s =
      .next (finishOk s (formatEffect s.latched (s.latched.h * (s.latched.w + 1)) (previewText s.latched s.buf))) :=
  exec_of_ok (by rw [commandResult, preview, h, checked_none, formatEffect])

/-- A character of a line, the line break among them (43_output_formatter.md R126). -/
theorem memRead_previewText (s : State) (len : Nat) {y j : Nat} (hy : y < s.latched.h) (hj : j < s.latched.w + 1) :
    memRead (finishOk s (formatEffect s.latched len (previewText s.latched s.buf))).buf
        (s.latched.txtBase.toNat + y * (s.latched.w + 1) + j) =
      (((List.range s.latched.w).map fun x => previewChar (mapByte s.latched s.buf x y)) ++ [charNewline]).getD j 0 := by
  have hk : y * (s.latched.w + 1) + j < (previewText s.latched s.buf).length := by
    rw [previewText_length, Nat.mul_comm s.latched.h]
    exact rowMajor_lt hj hy
  rw [Nat.add_assoc, memRead_formatEffect s len hk, Nat.mul_comm, previewText_getD _ _ hy hj]

end Sys2Proof.Machine
end

section
/-! The statements about the formatter commands and PREVIEW (43_output_formatter.md R116 to R127). -/

namespace Sys2Proof.Machine

/-- Settles O40: no check is made, the text is empty, and so is its length. -/
theorem emptyFormatSucceeds : Obligations.EmptyFormatSucceeds := by
  intro s i hi hlen
  have hn : s.latched.n = 0 := by rw [ConfigRegs.n, hlen]; rfl
  have hsource := sourceBytes_of_empty s.buf hn
  fin_cases hi
  · exact format_empty (formats_raw s) hn hn hsource
  · exact format_empty (formats_hex s) hn (by rw [hn]) (by rw [hsource]; rfl)
  · exact format_empty (formats_hexText s) hn (by rw [hn]; rfl) (by rw [hsource]; rfl)

/-- Settles O52: each of the three commands is a formatter command with its own length. -/
theorem formatCheckOrder : Obligations.FormatCheckOrder := by
  rintro s i txt (⟨rfl, rfl⟩ | ⟨rfl, rfl⟩ | ⟨rfl, rfl⟩) hn
  · exact format_check_order (formats_raw s) hn
  · exact format_check_order (formats_hex s) hn
  · rw [← textLen_of_ne_zero hn]
    exact format_check_order (formats_hexText s) hn

/-- Settles O41: the text is the source bytes. -/
theorem formatRawCopies : Obligations.FormatRawCopies := by
  intro s _ hsrc htxt hdisj
  refine ⟨_, exec_format_of_no_error (formats_raw s) (formatError_eq_none hsrc htxt hdisj), succeededStatus_finishOk s _,
    congrArg (fun v => { s.res with txtLen := v }) (ofNat_n s.latched), fun i hi => ?_⟩
  rw [memRead_formatEffect s _ (by rwa [sourceBytes_length]), sourceBytes_getD _ _ hi]

/-- Settles O42: character j of the token of byte i stands at 4i + j, and its digits are the two nibbles. -/
theorem formatHexWritesTokens : Obligations.FormatHexWritesTokens := by
  intro s _ hsrc htxt hdisj
  refine ⟨_, exec_format_of_no_error (formats_hex s) (formatError_eq_none hsrc htxt hdisj), succeededStatus_finishOk s _,
    rfl, ?_⟩
  rintro i _ _ _ hi rfl rfl rfl
  have hchar (j : Nat) (hj : j < 4) :
      memRead (finishOk s (formatEffect s.latched (4 * s.latched.n) (hexTokens (sourceBytes s.latched s.buf)))).buf
          (s.latched.txtBase.toNat + 4 * i + j) =
        (token (memRead s.buf (s.latched.srcBase.toNat + i))).getD j 0 := by
    rw [Nat.add_assoc, memRead_formatEffect s _ (by rw [hexTokens_length, sourceBytes_length]; omega),
      hexTokens_getD _ (by rwa [sourceBytes_length]) hj, sourceBytes_getD _ _ hi]
  refine ⟨hchar 0 (by decide), hchar 1 (by decide), ?_, ?_⟩
  · rw [hchar 2 (by decide), ← highNibble_toNat]
    exact hexChar_toNat _
  · rw [hchar 3 (by decide), ← lowNibble_toNat]
    exact hexChar_toNat _

/-- Settles O43: token i stands at 6i and its separator at 6i + 4. -/
theorem formatHexTextLaysOutTheText : Obligations.FormatHexTextLaysOutTheText := by
  intro s hn hsrc htxt hdisj
  rw [← textLen_of_ne_zero hn] at htxt hdisj ⊢
  have hlen := textLen_of_ne_zero hn
  have hlen' : (sourceBytes s.latched s.buf).length = s.latched.n := sourceBytes_length _ _
  refine ⟨_, exec_format_of_no_error (formats_hexText s) (formatError_eq_none hsrc htxt hdisj),
    succeededStatus_finishOk s _, rfl, fun i k hi hk => ?_, fun i hi => ⟨?_, ?_⟩⟩
  · rw [Nat.add_assoc, memRead_formatEffect s _ (by rw [hexText_length, hlen', hlen]; omega),
      hexText_token_getD _ _ _ (by rwa [hlen']) hk, sourceBytes_getD _ _ hi]
  · rw [Nat.add_assoc, memRead_formatEffect s _ (by rw [hexText_length, hlen', hlen]; omega)]
    exact (hexText_separator_getD _ 0 _ (by rwa [hlen']) (j := 0) (by decide)).trans (separator_getD_zero _ _)
  · rw [Nat.add_assoc, memRead_formatEffect s _ (by rw [hexText_length, hlen', hlen]; omega),
      hexText_separator_getD _ 0 _ (by rwa [hlen']) (j := 1) (by decide), separator_getD_one, Nat.zero_add]

/-- Settles O45: character j of line y stands at y(W + 1) + j, the line break being the last. -/
theorem previewRendersTheMap : Obligations.PreviewRendersTheMap := by
  intro s hw hh hlmap htxt hdisj hmap
  refine ⟨_, exec_preview_of_no_error (previewError_eq_none hw hh hlmap htxt hdisj (badMapValue_eq_false hmap)),
    succeededStatus_finishOk s _, rfl, fun y hy => ⟨fun x hx => ?_, ?_⟩⟩
  · rw [memRead_previewText s _ hy (Nat.lt_succ_of_lt hx), List.getD_append _ _ _ _ (by simpa using hx),
      getD_map_range _ hx]
    rfl
  · rw [memRead_previewText s _ hy (Nat.lt_succ_self _), List.getD_append_right _ _ _ _ (by simp)]
    simp [charNewline]

end Sys2Proof.Machine
end

section
/-! SUPPORT. A command's result as a function of the bytes it reads (20_memory.md R67, 10_state.md R44): each of its sequences
reads its read region alone, GENERATE also what it has just written; and a successful command writes every byte of its write
regions. -/

namespace Sys2Proof.Machine

/-! ### Bytes read -/

/-- Two memories that hold the same bytes in a region. -/
def AgreeOn (r : Region) (m m' : Memory) : Prop := ∀ a, r.base ≤ a → a < r.base + r.len → memRead m' a = memRead m a

theorem agreeOn_of_singleton {r : Region} {m m' : Memory}
    (h : ∀ a, anyContains [r] a = true → memRead m' a = memRead m a) : AgreeOn r m m' := by
  intro a hlo hhi
  exact h a (List.any_eq_true.2 ⟨r, List.mem_singleton.2 rfl, (contains_iff r a).2 ⟨hlo, hhi⟩⟩)

theorem readBytes_congr {r : Region} {m m' : Memory} (h : AgreeOn r m m') :
    readBytes m' r.base r.len = readBytes m r.base r.len :=
  List.map_congr_left fun _ hi => h _ (Nat.le_add_right _ _) (Nat.add_lt_add_left (List.mem_range.1 hi) _)

section
variable {L : ConfigRegs} {m m' : Memory}

/-- The bytes of a pixel lie in PIX when PIX_LEN is right (10_state.md R33). -/
theorem pixelByte_congr (h : AgreeOn L.pixRegion m m') (hlen : L.pixLen.toNat = 4 * L.w * L.h) (i k : Nat)
    (hi : i < L.w * L.h) (hk : k < 3) :
    memRead m' (L.pixBase.toNat + 4 * i + k) = memRead m (L.pixBase.toNat + 4 * i + k) := by
  refine h _ ?_ ?_ <;> simp only [ConfigRegs.pixRegion, hlen, Nat.mul_assoc] <;> omega

theorem binarizeWrites_congr (h : AgreeOn L.pixRegion m m') (hlen : L.pixLen.toNat = 4 * L.w * L.h) :
    binarizeWrites L m' = binarizeWrites L m :=
  congrArg (layOut _) (binarizeIgnoresAlpha L m m' (pixelByte_congr h hlen))

theorem packColorWrites_congr (h : AgreeOn L.pixRegion m m') (hlen : L.pixLen.toNat = 4 * L.w * L.h) :
    packColorWrites L m' = packColorWrites L m := by
  have hcolor : colorBytes L m' = colorBytes L m := by
    unfold colorBytes
    refine List.flatMap_congr fun i hi => ?_
    have hbyte := pixelByte_congr h hlen i
    have hi' := List.mem_range.1 hi
    have hr := hbyte 0 hi' (by decide)
    rw [Nat.add_zero] at hr
    simp only [colorPixel, hr, hbyte 1 hi' (by decide), hbyte 2 hi' (by decide)]
  exact congrArg (layOut _) hcolor

theorem mapByte_congr (h : AgreeOn L.lmapRegion m m') {x y : Nat} (hx : x < L.w) (hy : y < L.h) :
    mapByte L m' x y = mapByte L m x y := by
  have hlt := rowMajor_lt hx hy
  refine h _ ?_ ?_ <;> simp only [ConfigRegs.lmapRegion] <;> omega

theorem badMapValue_congr (h : AgreeOn L.lmapRegion m m') : badMapValue L m' = badMapValue L m := by
  rw [Bool.eq_iff_iff, badMapValue_iff, badMapValue_iff]
  refine exists_congr fun i => and_congr_right fun hi => ?_
  rw [h (L.lmapBase.toNat + i) (Nat.le_add_right _ _) (Nat.add_lt_add_left hi _)]

theorem packWrites_congr (h : AgreeOn L.lmapRegion m m') (mode : Mode) : packWrites L mode m' = packWrites L mode m :=
  congrArg (layOut _) (packBytes_congr rfl rfl rfl fun _ _ hx hy => ⟨rfl, by rw [mapByte_congr h hx hy]⟩)

theorem previewText_congr (h : AgreeOn L.lmapRegion m m') : previewText L m' = previewText L m := by
  unfold previewText
  refine List.flatMap_congr fun y hy => ?_
  refine congrArg (· ++ _) (List.map_congr_left fun x hx => ?_)
  rw [mapByte_congr h (List.mem_range.1 hx) (List.mem_range.1 hy)]

theorem sourceBytes_congr (h : AgreeOn L.srcRegion m m') : sourceBytes L m' = sourceBytes L m := readBytes_congr h

theorem generateText_congr (h : AgreeOn (L.outRegion L.generateSize) m m') : generateText L m' = generateText L m := by
  have hbytes : readBytes m' L.outBase.toNat L.generateSize = readBytes m L.outBase.toNat L.generateSize :=
    readBytes_congr h
  simp only [generateText, hbytes]

end

/-! ### Bytes written -/

theorem exists_layOut {base len a : Nat} {bs : List Byte} (hlen : bs.length = len) (hlo : base ≤ a)
    (hhi : a < base + len) : ∃ c ∈ layOut base bs, c.1 = a := by
  subst hlen
  induction bs generalizing base with
  | nil => exact absurd hhi (Nat.not_lt_of_le hlo)
  | cons b bs ih =>
    obtain rfl | hne := Nat.eq_or_lt_of_le hlo
    · exact ⟨_, List.mem_cons_self, rfl⟩
    · rw [List.length_cons] at hhi
      obtain ⟨c, hc, hca⟩ := ih (base := base + 1) hne (by omega)
      exact ⟨c, List.mem_cons_of_mem _ hc, hca⟩

/-- Every address of the region has a write. -/
def Covers (cs : List Host.Cell) (r : Region) : Prop := ∀ a, r.base ≤ a → a < r.base + r.len → ∃ c ∈ cs, c.1 = a

theorem covers_layOut {base len : Nat} {bs : List Byte} (hlen : bs.length = len) :
    Covers (layOut base bs) { base := base, len := len } :=
  fun _ hlo hhi => exists_layOut hlen hlo hhi

theorem Covers.append_left {cs : List Host.Cell} {r : Region} (h : Covers cs r) (ds : List Host.Cell) :
    Covers (cs ++ ds) r := fun a hlo hhi =>
  have ⟨c, hc, hca⟩ := h a hlo hhi
  ⟨c, List.mem_append_left ds hc, hca⟩

theorem Covers.append_right {ds : List Host.Cell} {r : Region} (h : Covers ds r) (cs : List Host.Cell) :
    Covers (cs ++ ds) r := fun a hlo hhi =>
  have ⟨c, hc, hca⟩ := h a hlo hhi
  ⟨c, List.mem_append_right cs hc, hca⟩

/-- What a list of writes covers reads the same afterwards, whatever the memory held before. -/
theorem Covers.agreeOn {cs : List Host.Cell} {r : Region} (h : Covers cs r) (m m' : Memory) :
    AgreeOn r (memWriteAll m cs) (memWriteAll m' cs) := by
  intro a hlo hhi
  obtain ⟨c, -, -, hread⟩ := exists_lastWrite (h a hlo hhi)
  rw [hread, hread]

theorem covers_binarizeWrites (L : ConfigRegs) (m : Memory) : Covers (binarizeWrites L m) L.lmapRegion :=
  covers_layOut (luminanceMap_length L m)

theorem covers_packColorWrites (L : ConfigRegs) (m : Memory) :
    Covers (packColorWrites L m) (L.outRegion (2 * L.w * L.h)) :=
  covers_layOut (colorBytes_length L m)

theorem covers_packWrites (L : ConfigRegs) (mode : Mode) (m : Memory) :
    Covers (packWrites L mode m) (L.outRegion (mode.packedSize L.w L.h)) :=
  covers_layOut (packBytes_length L mode m)

theorem covers_generatePackWrites {L : ConfigRegs} {mode : Mode} (hm : L.mode = some mode) (m : Memory) :
    Covers (generatePackWrites L mode m) (L.outRegion L.generateSize) := by
  rw [generateSize_eq hm, generatePackWrites]
  split
  · exact covers_packColorWrites L m
  · exact (covers_packWrites L mode _).append_right _

/-- The writes of a successful command cover its write regions: the converse of `writes_in_regions`. -/
theorem covers_writeRegions {i : Instr} {n : Nat} {L : ConfigRegs} {m : Memory} {e : Effect}
    (h : commandResult i n L m = .ok e) {r : Region} (hr : r ∈ writeRegions i L) : Covers e.writes r := by
  cases i with
  | binarize =>
    cases List.mem_singleton.1 hr
    obtain ⟨-, rfl⟩ := binarize_ok h
    exact covers_binarizeWrites L m
  | packColor =>
    cases List.mem_singleton.1 hr
    obtain ⟨-, rfl⟩ := packColor_ok h
    exact covers_packColorWrites L m
  | pack =>
    cases List.mem_singleton.1 hr
    obtain ⟨mode, hm, -, rfl⟩ := pack_ok h
    simp only [ConfigRegs.packSize, hm]
    exact covers_packWrites L mode m
  | formatRaw =>
    cases List.mem_singleton.1 hr
    obtain ⟨-, rfl⟩ := formatRaw_ok h
    exact covers_layOut (sourceBytes_length L m)
  | formatHex =>
    cases List.mem_singleton.1 hr
    obtain ⟨-, rfl⟩ := formatHex_ok h
    exact covers_layOut (by simp)
  | formatHexText =>
    cases List.mem_singleton.1 hr
    obtain ⟨-, rfl⟩ := formatHexText_ok h
    exact covers_layOut (by simp)
  | size => cases hr
  | preview =>
    cases List.mem_singleton.1 hr
    obtain ⟨-, rfl⟩ := preview_ok h
    exact covers_layOut (previewText_length L m)
  | generate =>
    obtain ⟨mode, hm, -, rfl⟩ := generate_ok h
    have hout : Covers (generateWrites L mode m) (L.outRegion L.generateSize) :=
      (covers_generatePackWrites hm m).append_left _
    have htxt : Covers (generateWrites L mode m) (L.txtRegion L.generateTextLen) :=
      Covers.append_right (covers_layOut (generateText_length L _)) _
    simp only [writeRegions] at hr
    split at hr <;> rename_i hcol <;> simp only [List.mem_cons, List.not_mem_nil, or_false] at hr
    · obtain rfl | rfl := hr
      · exact hout
      · exact htxt
    · obtain rfl | rfl | rfl := hr
      · rw [generateWrites, generatePackWrites, if_neg hcol, List.append_assoc]
        exact (covers_binarizeWrites L m).append_left _
      · exact hout
      · exact htxt

/-! ### The result -/

theorem checked_congr {f : Option CmdError} {effect effect' : Unit → Effect} (h : f = none → effect () = effect' ()) :
    checked f effect = checked f effect' := by
  cases f with
  | none => exact congrArg Except.ok (h rfl)
  | some e => rfl

/-- GENERATE reads PIX, and beyond it only what it has just written (44_codec_facade.md R139). -/
theorem generateWrites_congr {L : ConfigRegs} {mode : Mode} {m m' : Memory} (hm : L.mode = some mode)
    (h : AgreeOn L.pixRegion m m') (hlen : L.pixLen.toNat = 4 * L.w * L.h) :
    generateWrites L mode m' = generateWrites L mode m := by
  have hpack : generatePackWrites L mode m' = generatePackWrites L mode m := by
    unfold generatePackWrites
    split
    · exact packColorWrites_congr h hlen
    · rw [binarizeWrites_congr h hlen, packWrites_congr ((covers_binarizeWrites L m).agreeOn m m')]
  rw [generateWrites, generateWrites, hpack, generateText_congr ((covers_generatePackWrites hm m).agreeOn m m')]

/-- The result of a command is a function of MEM_BYTES, the latch and the bytes of its read regions (10_state.md R44). -/
theorem commandResult_congr {i : Instr} {n : Nat} {L : ConfigRegs} {m m' : Memory}
    (h : ∀ a, anyContains (readRegions i L) a = true → memRead m' a = memRead m a) :
    commandResult i n L m' = commandResult i n L m := by
  cases i with
  | binarize =>
    simp only [commandResult, binarize]
    refine checked_congr fun hf => ?_
    obtain ⟨-, -, hlen, -⟩ := binarizeError_none hf
    rw [binarizeWrites_congr (agreeOn_of_singleton h) hlen]
  | packColor =>
    simp only [commandResult, packColor]
    refine checked_congr fun hf => ?_
    obtain ⟨-, -, hlen, -⟩ := packColorError_none hf
    rw [packColorWrites_congr (agreeOn_of_singleton h) hlen]
  | pack =>
    have hmap : AgreeOn L.lmapRegion m m' := agreeOn_of_singleton h
    simp only [commandResult, pack, packError, badMapValue_congr hmap, packWrites_congr hmap]
  | formatRaw => simp only [commandResult, formatRaw, sourceBytes_congr (agreeOn_of_singleton h)]
  | formatHex => simp only [commandResult, formatHex, sourceBytes_congr (agreeOn_of_singleton h)]
  | formatHexText => simp only [commandResult, formatHexText, sourceBytes_congr (agreeOn_of_singleton h)]
  | size => rfl
  | preview =>
    have hmap : AgreeOn L.lmapRegion m m' := agreeOn_of_singleton h
    simp only [commandResult, preview, previewError, badMapValue_congr hmap, previewText_congr hmap]
  | generate =>
    simp only [commandResult, generate]
    split
    · rfl
    · rename_i mode hm
      refine checked_congr fun hf => ?_
      obtain ⟨-, -, hlen, -⟩ := generateError_none hf
      rw [generateWrites_congr hm (agreeOn_of_singleton h) hlen]

end Sys2Proof.Machine
end

section
/-! The statement about what a command's result depends on (20_memory.md R67, 10_state.md R44). -/

namespace Sys2Proof.Machine

/-- Settles O30: the two results are the same, so both completions end the same way, and the same writes cover the write
regions. -/
theorem resultDependsOnlyOnLatchAndReadRegions : Obligations.ResultDependsOnlyOnLatchAndReadRegions := by
  intro i s s' t t' hlatch hparams hres hread h h'
  have hresult : commandResult i s'.params.memBytes s'.latched s'.buf =
      commandResult i s.params.memBytes s.latched s.buf := by
    rw [hlatch, hparams]
    exact commandResult_congr hread
  rw [exec_eq, hresult] at h'
  rw [exec_eq] at h
  cases hr : commandResult i s.params.memBytes s.latched s.buf with
  | error e =>
    rw [hr, completeWith_error] at h h'
    cases h
    cases h'
    exact ⟨rfl, rfl, rfl, hres, nofun⟩
  | ok e =>
    rw [hr, completeWith_ok] at h h'
    cases h
    cases h'
    refine ⟨rfl, rfl, rfl, by rw [finishOk_res, finishOk_res, hres], fun _ a ha => ?_⟩
    obtain ⟨r, hmem, hra⟩ := List.any_eq_true.1 ha
    obtain ⟨hlo, hhi⟩ := (contains_iff r a).1 hra
    exact (covers_writeRegions hr hmem).agreeOn s.buf s'.buf a hlo hhi

end Sys2Proof.Machine
end

section
/-! SUPPORT. GENERATE's checks as conditions on its regions (44_codec_facade.md R136, R140), its metadata (R141), and what it
answers once its checks pass. -/

namespace Sys2Proof.Machine

/-! ### Checks -/

/-- The pairs of regions GENERATE uses, those with LMAP in monochrome alone (44_codec_facade.md R136, R140). -/
theorem generateRegions_overlap_iff (L : ConfigRegs) :
    anyOverlap (generateRegions L) = true ↔
      L.pixRegion.overlaps (L.outRegion L.generateSize) = true ∨
      L.pixRegion.overlaps (L.txtRegion L.generateTextLen) = true ∨
      (L.outRegion L.generateSize).overlaps (L.txtRegion L.generateTextLen) = true ∨
      (L.color = false ∧ (L.pixRegion.overlaps L.lmapRegion = true ∨
        L.lmapRegion.overlaps (L.outRegion L.generateSize) = true ∨
        L.lmapRegion.overlaps (L.txtRegion L.generateTextLen) = true)) := by
  cases hcol : L.color
  · simp only [generateRegions, hcol, anyOverlap, List.any_cons, List.any_nil, Bool.or_eq_true, Bool.or_false,
      Bool.false_eq_true, if_false, true_and]
    tauto
  · simp [generateRegions, hcol, anyOverlap, or_assoc]

theorem generateRegions_disjoint_iff (L : ConfigRegs) :
    anyOverlap (generateRegions L) = false ↔
      L.pixRegion.overlaps (L.outRegion L.generateSize) = false ∧
      L.pixRegion.overlaps (L.txtRegion L.generateTextLen) = false ∧
      (L.outRegion L.generateSize).overlaps (L.txtRegion L.generateTextLen) = false ∧
      (L.color = false → L.pixRegion.overlaps L.lmapRegion = false ∧
        L.lmapRegion.overlaps (L.outRegion L.generateSize) = false ∧
        L.lmapRegion.overlaps (L.txtRegion L.generateTextLen) = false) := by
  rw [← Bool.not_eq_true, generateRegions_overlap_iff]
  simp only [not_or, not_and, Bool.not_eq_true]

/-- The converse of `generateError_none`. -/
theorem generateError_eq_none {n : Nat} {L : ConfigRegs} (hw : L.w ≠ 0) (hh : L.h ≠ 0)
    (hlen : L.pixLen.toNat = 4 * L.w * L.h) (hpix : L.pixRegion.inBounds n = true)
    (hlmap : L.color = false → L.lmapRegion.inBounds n = true) (hout : (L.outRegion L.generateSize).inBounds n = true)
    (htxt : (L.txtRegion L.generateTextLen).inBounds n = true) (hdisj : anyOverlap (generateRegions L) = false) :
    generateError n L = none := by
  cases hcol : L.color <;> simp_all [generateError]

/-! ### Metadata -/

/-- The bytes per page of the packing GENERATE does (44_codec_facade.md R138). -/
def ConfigRegs.generatePage (L : ConfigRegs) (mode : Mode) : Nat :=
  if L.color then 2 * L.w else mode.bytesPerPage L.w L.h

theorem generateMeta_eq {L : ConfigRegs} {mode : Mode} (hm : L.mode = some mode) (hw : L.w ≠ 0) :
    generateMeta L mode =
      { bytes := BitVec.ofNat 32 L.generateSize
        bytesPerPage := BitVec.ofNat 32 (L.generatePage mode)
        pageCount := BitVec.ofNat 32 (L.generateSize / L.generatePage mode)
        width := L.width
        height := L.height
        info := if L.color then 8 else BitVec.ofNat 32 mode.number } := by
  rw [generateSize_eq hm]
  cases hcol : L.color
  · simp [generateMeta, packMeta, ConfigRegs.generatePage, hcol]
  · have hpages : 2 * L.w * L.h / (2 * L.w) = L.h := Nat.mul_div_cancel_left _ (by omega)
    simp [generateMeta, colorMeta, colorInfo, ConfigRegs.generatePage, hcol, hpages]

/-! ### The answer -/

/-- What GENERATE does once its checks pass. -/
def generateEffect (L : ConfigRegs) (mode : Mode) (m : Memory) : Effect :=
  { writes := generateWrites L mode m
    packed := some (generateMeta L mode)
    txtLen := some (BitVec.ofNat 32 L.generateTextLen)
    size := some (BitVec.ofNat 32 L.generateSize) }

theorem exec_generate_of_no_error {s : State} {mode : Mode} (hm : s.latched.mode = some mode)
    (h : generateError s.params.memBytes s.latched = none) :
    exec .generate s = .next (finishOk s (generateEffect s.latched mode s.buf)) :=
  exec_of_ok (by simp only [commandResult, generate, hm, h, checked_none, generateEffect])

/-- A command that leaves ERR = 0 has succeeded (10_state.md R27). -/
theorem exec_ok_of_no_err {i : Instr} {s t : State} (h : exec i s = .next t) (herr : t.status.err = false) :
    ∃ e, commandResult i s.params.memBytes s.latched s.buf = .ok e ∧ t = finishOk s e := by
  obtain h' | ⟨e, -, rfl⟩ := exec_next h
  · exact h'
  · simp at herr

end Sys2Proof.Machine
end

section
/-! The statements about GENERATE's results and the order of its checks (44_codec_facade.md R136 to R141). -/

namespace Sys2Proof.Machine

/-- Settles O46: the checks pass, and the effect writes all eight result registers. -/
theorem generateReportsItsResults : Obligations.GenerateReportsItsResults := by
  intro s mode size tlen hm hw hh hlen hsize htlen hpix hlmap hout htxt hpo hpt hot hmono
  obtain rfl : size = s.latched.generateSize := hsize.trans (generateSize_eq hm).symm
  obtain rfl : tlen = s.latched.generateTextLen := htlen
  have hdisj := (generateRegions_disjoint_iff s.latched).2 ⟨hpo, hpt, hot, hmono⟩
  refine ⟨_, exec_generate_of_no_error hm (generateError_eq_none hw hh hlen hpix hlmap hout htxt hdisj),
    succeededStatus_finishOk s _, ?_⟩
  rw [finishOk_res, generateEffect, generateMeta_eq hm hw]
  rfl

/-- Settles O54, clause by clause, by `failsWith_generate`. -/
theorem generateCheckOrder : Obligations.GenerateCheckOrder := by
  rintro s _ _ rfl rfl
  refine ⟨failsWith_generate_unknownMode, fun hmode => ?_⟩
  obtain ⟨mode, hm⟩ := exists_mode hmode
  refine ⟨fun hw => ?_, fun hw hh => ?_, fun hw hh hlen => ?_, fun hw hh hlen => ⟨fun hpix => ?_,
    fun hpix => ⟨fun hcol hlmap => ?_, fun hlmap => ?_⟩⟩⟩
  · exact failsWith_generate (e := .zeroWidth) hm (by simp [generateError, hw])
  · exact failsWith_generate (e := .zeroHeight) hm (by simp [generateError, hw, hh])
  · exact failsWith_generate (e := .pixLength) hm (by simp [generateError, hw, hh, hlen])
  · exact failsWith_generate (e := .pixBounds) hm (by simp [generateError, hw, hh, hlen, hpix])
  · exact failsWith_generate (e := .lmapBounds) hm (by simp [generateError, hw, hh, hlen, hpix, hcol, hlmap])
  · have hlmap' : (!s.latched.color && !s.latched.lmapRegion.inBounds s.params.memBytes) = false := by
      obtain h | h := hlmap <;> simp [h]
    refine ⟨fun hout => ?_, fun hout => ⟨fun htxt => ?_, fun htxt hover => ?_⟩⟩
    · exact failsWith_generate (e := .outBounds) hm (by simp [generateError, hw, hh, hlen, hpix, hlmap', hout])
    · exact failsWith_generate (e := .txtBounds) hm (by simp [generateError, hw, hh, hlen, hpix, hlmap', hout, htxt])
    · rw [← generateRegions_overlap_iff] at hover
      exact failsWith_generate (e := .overlap) hm
        (by simp [generateError, hw, hh, hlen, hpix, hlmap', hout, htxt, hover])

end Sys2Proof.Machine
end

section
/-! SUPPORT. That the numbers of a successful command fit in 32 bits (10_state.md R39): a region disjoint from a non-empty one is
not all of BUF. -/

namespace Sys2Proof.Machine

theorem region_len_lt {n : Nat} {r q : Region} (hn : n ≤ 2 ^ 32) (hr : r.inBounds n = true) (hq : q.inBounds n = true)
    (hne : r.len ≠ 0) (h : r.overlaps q = false) : q.len < 2 ^ 32 := by
  rw [inBounds_iff] at hr hq
  rw [← Bool.not_eq_true, overlaps_iff] at h
  omega

theorem ofNat_toNat_of_lt {k : Nat} (h : k < 2 ^ 32) : (BitVec.ofNat 32 k).toNat = k := by
  rw [BitVec.toNat_ofNat, Nat.mod_eq_of_lt h]

theorem pixLen_ne_zero {L : ConfigRegs} (hw : L.w ≠ 0) (hh : L.h ≠ 0) (hlen : L.pixLen.toNat = 4 * L.w * L.h) :
    L.pixRegion.len ≠ 0 := by
  rw [ConfigRegs.pixRegion, hlen]
  exact Nat.mul_ne_zero (Nat.mul_ne_zero (by decide) hw) hh

theorem formatError_len_lt {n : Nat} {L : ConfigRegs} {len : Nat} (hn : n ≤ 2 ^ 32) (h0 : L.n = 0 → len = 0)
    (h : formatError n L len = none) : len < 2 ^ 32 := by
  by_cases hsrc : L.n = 0
  · rw [h0 hsrc]
    decide
  · obtain ⟨hb, ht, hdisj⟩ := (formatError_none h).resolve_left hsrc
    exact region_len_lt hn hb ht hsrc hdisj

/-- What the metadata say of a packing of `size` bytes, `page` of them a page (10_state.md R39, R40). -/
structure MetaExact (L : ConfigRegs) (q : PackedMeta) (size page info : Nat) : Prop where
  bytes : q.bytes.toNat = size
  bytesPerPage : q.bytesPerPage.toNat = page
  pageCount : q.pageCount.toNat = size / page
  width : q.width.toNat = L.w
  height : q.height.toNat = L.h
  info : q.info.toNat = info

theorem colorMeta_exact {L : ConfigRegs} (hw : L.w ≠ 0) (hh : L.h ≠ 0) (hfit : 2 * L.w * L.h < 2 ^ 32) :
    MetaExact L (colorMeta L) (2 * L.w * L.h) (2 * L.w) 8 where
  bytes := ofNat_toNat_of_lt hfit
  bytesPerPage := ofNat_toNat_of_lt (Nat.lt_of_le_of_lt (Nat.le_mul_of_pos_right _ (Nat.pos_of_ne_zero hh)) hfit)
  pageCount := by
    rw [colorMeta, ofNat_h, Nat.mul_div_cancel_left _ (by omega)]
    rfl
  width := rfl
  height := rfl
  info := rfl

theorem bytesPerPage_le_packedSize (mode : Mode) {W H : Nat} (hW : W ≠ 0) (hH : H ≠ 0) :
    mode.bytesPerPage W H ≤ mode.packedSize W H := by
  cases mode
  case row | rowCol => exact Nat.le_mul_of_pos_right _ (Nat.pos_of_ne_zero hH)
  case col | colRow => exact Nat.le_mul_of_pos_right _ (Nat.pos_of_ne_zero hW)

theorem packMeta_exact {L : ConfigRegs} {mode : Mode} (hw : L.w ≠ 0) (hh : L.h ≠ 0)
    (hfit : mode.packedSize L.w L.h < 2 ^ 32) :
    MetaExact L (packMeta L mode) (mode.packedSize L.w L.h) (mode.bytesPerPage L.w L.h) mode.number where
  bytes := ofNat_toNat_of_lt hfit
  bytesPerPage := ofNat_toNat_of_lt (Nat.lt_of_le_of_lt (bytesPerPage_le_packedSize mode hw hh) hfit)
  pageCount := ofNat_toNat_of_lt (Nat.lt_of_le_of_lt (Nat.div_le_self _ _) hfit)
  width := rfl
  height := rfl
  info := packMeta_info_toNat L mode

theorem packColor_exact {n : Nat} {L : ConfigRegs} (hn : n ≤ 2 ^ 32) (h : packColorError n L = none) :
    MetaExact L (colorMeta L) (2 * L.w * L.h) (2 * L.w) 8 := by
  obtain ⟨hw, hh, hlen, hpix, hout, hdisj⟩ := packColorError_none h
  exact colorMeta_exact hw hh (region_len_lt hn hpix hout (pixLen_ne_zero hw hh hlen) hdisj)

theorem pack_exact {n : Nat} {L : ConfigRegs} {mode : Mode} {m : Memory} (hn : n ≤ 2 ^ 32)
    (h : packError n L mode m = none) :
    MetaExact L (packMeta L mode) (mode.packedSize L.w L.h) (mode.bytesPerPage L.w L.h) mode.number := by
  obtain ⟨hw, hh, hlmap, hout, hdisj, -⟩ := packError_none h
  exact packMeta_exact hw hh (region_len_lt hn hlmap hout (Nat.mul_ne_zero hw hh) hdisj)

theorem generateSize_lt {n : Nat} {L : ConfigRegs} (hn : n ≤ 2 ^ 32) (h : generateError n L = none) :
    L.generateSize < 2 ^ 32 := by
  obtain ⟨hw, hh, hlen, hpix, -, hout, -, hdisj⟩ := generateError_none h
  obtain ⟨hpo, -⟩ := (generateRegions_disjoint_iff L).1 hdisj
  exact region_len_lt hn hpix hout (pixLen_ne_zero hw hh hlen) hpo

theorem generateTextLen_lt {n : Nat} {L : ConfigRegs} (hn : n ≤ 2 ^ 32) (h : generateError n L = none) :
    L.generateTextLen < 2 ^ 32 := by
  obtain ⟨hw, hh, hlen, hpix, -, -, htxt, hdisj⟩ := generateError_none h
  obtain ⟨-, hpt, -⟩ := (generateRegions_disjoint_iff L).1 hdisj
  exact region_len_lt hn hpix htxt (pixLen_ne_zero hw hh hlen) hpt

theorem generate_exact {n : Nat} {L : ConfigRegs} {mode : Mode} (hn : n ≤ 2 ^ 32) (hm : L.mode = some mode)
    (h : generateError n L = none) :
    MetaExact L (generateMeta L mode) L.generateSize (L.generatePage mode) (if L.color then 8 else mode.number) := by
  obtain ⟨hw, hh, -⟩ := generateError_none h
  have hfit := generateSize_lt hn h
  rw [generateSize_eq hm] at hfit ⊢
  unfold generateMeta ConfigRegs.generatePage
  split_ifs at hfit ⊢
  · exact colorMeta_exact hw hh hfit
  · exact packMeta_exact hw hh hfit

theorem previewLen_lt {n : Nat} {L : ConfigRegs} {m : Memory} (hn : n ≤ 2 ^ 32) (h : previewError n L m = none) :
    L.h * (L.w + 1) < 2 ^ 32 := by
  obtain ⟨hw, hh, hlmap, htxt, hdisj, -⟩ := previewError_none h
  exact region_len_lt hn hlmap htxt (Nat.mul_ne_zero hw hh) hdisj

end Sys2Proof.Machine
end

section
/-! The statement that the result registers hold exact numbers (10_state.md R39). -/

namespace Sys2Proof.Machine

/-- A packing command reports exact metadata. -/
theorem exists_metaExact {i : Instr} {n : Nat} {L : ConfigRegs} {m : Memory} {e : Effect} (hn : n ≤ 2 ^ 32)
    (hi : i ∈ [Instr.packColor, .pack, .generate]) (h : commandResult i n L m = .ok e) :
    ∃ q size page info, e.packed = some q ∧ MetaExact L q size page info := by
  fin_cases hi
  · obtain ⟨hf, rfl⟩ := packColor_ok h
    exact ⟨_, _, _, _, rfl, packColor_exact hn hf⟩
  · obtain ⟨_, -, hf, rfl⟩ := pack_ok h
    exact ⟨_, _, _, _, rfl, pack_exact hn hf⟩
  · obtain ⟨_, hm, hf, rfl⟩ := generate_ok h
    exact ⟨_, _, _, _, rfl, generate_exact hn hm hf⟩

/-- Settles O55: each register is the cut of a number that fits, the length of a region disjoint from another in BUF. -/
theorem reportedLengthsAreExact : Obligations.ReportedLengthsAreExact := by
  intro i s t hn h herr
  obtain ⟨e, he, rfl⟩ := exec_ok_of_no_err h herr
  refine ⟨?_, ?_, ?_, fun hi => ?_, ?_, ?_, ?_, ?_, ?_, ?_⟩
  · rintro rfl
    obtain ⟨hf, rfl⟩ := packColor_ok he
    have hexact := packColor_exact hn hf
    exact ⟨hexact.bytes, hexact.bytesPerPage, hexact.info⟩
  · rintro rfl
    obtain ⟨mode, hm, hf, rfl⟩ := pack_ok he
    have hexact := pack_exact hn hf
    refine ⟨?_, mode, hm, hexact.bytesPerPage, hexact.info⟩
    rw [ConfigRegs.packSize, hm]
    exact hexact.bytes
  · rintro rfl
    obtain ⟨mode, hm, hf, rfl⟩ := generate_ok he
    have hexact := generate_exact hn hm hf
    exact ⟨hexact.bytes, mode, hm, hexact.bytesPerPage, hexact.info⟩
  · obtain ⟨q, size, page, info, hq, hexact⟩ := exists_metaExact hn hi he
    simp only [finishOk_res, writeResults_bytes, writeResults_bytesPerPage, writeResults_pageCount, writeResults_width,
      writeResults_height, hq, writePacked_some, hexact.bytes, hexact.bytesPerPage, hexact.pageCount, hexact.width,
      hexact.height, and_self]
  · rintro rfl
    obtain ⟨hf, rfl⟩ := formatRaw_ok he
    exact ofNat_toNat_of_lt (formatError_len_lt hn id hf)
  · rintro rfl
    obtain ⟨hf, rfl⟩ := formatHex_ok he
    exact ofNat_toNat_of_lt (formatError_len_lt hn (by omega) hf)
  · rintro rfl
    obtain ⟨hf, rfl⟩ := formatHexText_ok he
    exact ofNat_toNat_of_lt (formatError_len_lt hn (fun h0 => by rw [h0]; rfl) hf)
  · rintro rfl
    obtain ⟨hf, rfl⟩ := preview_ok he
    exact ofNat_toNat_of_lt (previewLen_lt hn hf)
  · rintro rfl
    cases size_ok he
    rfl
  · rintro rfl
    obtain ⟨mode, -, hf, rfl⟩ := generate_ok he
    exact ⟨ofNat_toNat_of_lt (generateTextLen_lt hn hf), ofNat_toNat_of_lt (generateSize_lt hn hf)⟩

end Sys2Proof.Machine
end

section
/-! SUPPORT. The stages of GENERATE as commands of their own (44_codec_facade.md R139): BINARIZE and PACK, or PACK_COLOR, pass
their checks where GENERATE passes its own, and so does the formatter command over the packed bytes. -/

namespace Sys2Proof.Machine

/-- A map value is 0 or 1 (40_binarizer.md R86). -/
theorem lumPixel_le_one (L : ConfigRegs) (m : Memory) (i : Nat) : (lumPixel L m i).toNat ≤ 1 := by
  simp only [lumPixel, lumBit_eq]
  split <;> decide

/-- The map that BINARIZE has just written is one PACK accepts. -/
theorem badMapValue_binarizeWrites (L : ConfigRegs) (m : Memory) :
    badMapValue L (memWriteAll m (binarizeWrites L m)) = false := by
  rw [← Bool.not_eq_true, badMapValue_iff]
  rintro ⟨i, hi, hbad⟩
  rw [memRead_binarizeWrites L m hi] at hbad
  exact Nat.not_lt_of_le (lumPixel_le_one L m i) hbad

section
variable {n : Nat} {L : ConfigRegs} (h : generateError n L = none)
include h

theorem binarizeError_of_generate (hcol : L.color = false) : binarizeError n L = none := by
  obtain ⟨hw, hh, hlen, hpix, hlmap, -, -, hdisj⟩ := generateError_none h
  obtain ⟨-, -, -, hmono⟩ := (generateRegions_disjoint_iff L).1 hdisj
  exact binarizeError_eq_none hw hh hlen hpix (hlmap hcol) (hmono hcol).1

theorem packError_of_generate {mode : Mode} (hm : L.mode = some mode) (hcol : L.color = false) (m : Memory) :
    packError n L mode (memWriteAll m (binarizeWrites L m)) = none := by
  obtain ⟨hw, hh, -, -, hlmap, hout, -, hdisj⟩ := generateError_none h
  obtain ⟨-, -, -, hmono⟩ := (generateRegions_disjoint_iff L).1 hdisj
  obtain ⟨-, hlo, -⟩ := hmono hcol
  have hsize : L.generateSize = mode.packedSize L.w L.h := by simp [generateSize_eq hm, hcol]
  rw [hsize] at hout hlo
  exact packError_eq_none hw hh (hlmap hcol) hout hlo (badMapValue_binarizeWrites L m)

theorem packColorError_of_generate (hcol : L.color = true) : packColorError n L = none := by
  obtain ⟨hw, hh, hlen, hpix, -, hout, -, hdisj⟩ := generateError_none h
  obtain ⟨hpo, -⟩ := (generateRegions_disjoint_iff L).1 hdisj
  have hsize : L.generateSize = 2 * L.w * L.h := if_pos hcol
  rw [hsize] at hout hpo
  exact packColorError_eq_none hw hh hlen hpix hout hpo

end

/-- The registers of the formatter command over the packed bytes. -/
def ConfigRegs.artifactSource (L : ConfigRegs) : ConfigRegs :=
  { L with srcBase := L.outBase, srcLen := BitVec.ofNat 32 L.generateSize }

theorem artifactSource_n {L : ConfigRegs} (hfit : L.generateSize < 2 ^ 32) : L.artifactSource.n = L.generateSize :=
  ofNat_toNat_of_lt hfit

theorem sourceBytes_artifactSource {L : ConfigRegs} (m : Memory) (hfit : L.generateSize < 2 ^ 32) :
    sourceBytes L.artifactSource m = readBytes m L.outBase.toNat L.generateSize := by
  rw [sourceBytes, artifactSource_n hfit]
  rfl

/-- The last stage: from an idle state with these registers the formatter command writes GENERATE's text. -/
theorem exec_artifact {u : State} {L : ConfigRegs} (hidle : u.inflight = none) (hcfg : u.cfg = L.artifactSource)
    (hn : u.params.memBytes ≤ 2 ^ 32) (h : generateError u.params.memBytes L = none) :
    exec (if L.hexOut then .formatHex else .formatRaw) u =
      .next (finishOk u (formatEffect L L.generateTextLen (generateText L u.buf))) := by
  have hfit := generateSize_lt hn h
  obtain ⟨-, -, -, -, -, hout, htxt, hdisj⟩ := generateError_none h
  obtain ⟨-, -, hot, -⟩ := (generateRegions_disjoint_iff L).1 hdisj
  have hlatched : u.latched = L.artifactSource := (latched_of_idle hidle).trans hcfg
  have hsrc : L.artifactSource.srcRegion = L.outRegion L.generateSize := by
    rw [ConfigRegs.srcRegion, artifactSource_n hfit]
    rfl
  have hchecks : formatError u.params.memBytes u.latched L.generateTextLen = none := by
    rw [hlatched]
    exact formatError_eq_none (hsrc ▸ hout) htxt (hsrc ▸ hot)
  have hlen : u.latched.n = L.generateSize := by rw [hlatched, artifactSource_n hfit]
  have hbytes : sourceBytes u.latched u.buf = readBytes u.buf L.outBase.toNat L.generateSize := by
    rw [hlatched, sourceBytes_artifactSource _ hfit]
  have hformats : Formats (if L.hexOut then .formatHex else .formatRaw) u L.generateTextLen (generateText L u.buf) := by
    rw [generateText, ConfigRegs.generateTextLen, ← hbytes, ← hlen]
    split
    · exact formats_hex u
    · exact formats_raw u
  rw [exec_format_of_no_error hformats hchecks, hlatched]
  rfl

theorem memWriteAll_generateWrites (L : ConfigRegs) (mode : Mode) (m : Memory) :
    memWriteAll m (generateWrites L mode m) =
      memWriteAll (memWriteAll m (generatePackWrites L mode m))
        (layOut L.txtBase.toNat (generateText L (memWriteAll m (generatePackWrites L mode m)))) := by
  rw [generateWrites, memWriteAll_append]

theorem memWriteAll_generatePackWrites_mono {L : ConfigRegs} (hcol : L.color = false) (mode : Mode) (m : Memory) :
    memWriteAll m (generatePackWrites L mode m) =
      memWriteAll (memWriteAll m (binarizeWrites L m)) (packWrites L mode (memWriteAll m (binarizeWrites L m))) := by
  rw [generatePackWrites, hcol, if_neg Bool.false_ne_true, memWriteAll_append]

theorem generatePackWrites_color {L : ConfigRegs} (hcol : L.color = true) (mode : Mode) (m : Memory) :
    generatePackWrites L mode m = packColorWrites L m := if_pos hcol

theorem generateMeta_mono {L : ConfigRegs} (hcol : L.color = false) (mode : Mode) :
    generateMeta L mode = packMeta L mode := by
  simp [generateMeta, hcol]

theorem generateMeta_color {L : ConfigRegs} (hcol : L.color = true) (mode : Mode) :
    generateMeta L mode = colorMeta L := if_pos hcol

/-- RES_SIZE after GENERATE is the number its packing step reports in RES_BYTES (44_codec_facade.md R141). -/
theorem generateMeta_bytes {L : ConfigRegs} {mode : Mode} (hm : L.mode = some mode) :
    (generateMeta L mode).bytes = BitVec.ofNat 32 L.generateSize := by
  rw [generateSize_eq hm, generateMeta]
  split <;> rfl

end Sys2Proof.Machine
end

section
/-! The statements that GENERATE is the composition of its stages (44_codec_facade.md R139). -/

namespace Sys2Proof.Machine

/-- Settles O47: GENERATE's writes are those of the three stages in a row. -/
theorem monochromeGenerateIsTheComposition : Obligations.MonochromeGenerateIsTheComposition := by
  intro s t hidle hn hcol h herr
  obtain ⟨e, he, rfl⟩ := exec_ok_of_no_err h herr
  obtain ⟨mode, hm, hf, rfl⟩ := generate_ok he
  have hlatched := latched_of_idle hidle
  rw [hlatched] at hm hf ⊢
  have hbinarize := exec_binarize_of_no_error (hlatched ▸ binarizeError_of_generate hf hcol)
  rw [hlatched] at hbinarize
  have hbytes := generateMeta_bytes hm
  rw [generateMeta_mono hcol] at hbytes ⊢
  refine ⟨_, _, _, hbinarize, rfl,
    exec_pack_of_no_error (s := finishOk s _) hm (packError_of_generate hf hm hcol s.buf), rfl,
    exec_artifact rfl ?_ hn hf, rfl, ?_, ?_⟩
  · rw [ConfigRegs.artifactSource, ← hbytes]
    rfl
  · rw [finishOk_buf, memWriteAll_generateWrites, memWriteAll_generatePackWrites_mono hcol]
    rfl
  · rw [← hbytes]
    rfl

/-- Settles O48: GENERATE's writes are those of the two stages in a row. -/
theorem colorGenerateIsTheComposition : Obligations.ColorGenerateIsTheComposition := by
  intro s t hidle hn hcol h herr
  obtain ⟨e, he, rfl⟩ := exec_ok_of_no_err h herr
  obtain ⟨mode, hm, hf, rfl⟩ := generate_ok he
  have hlatched := latched_of_idle hidle
  rw [hlatched] at hm hf ⊢
  have hpack := exec_packColor_of_no_error (hlatched ▸ packColorError_of_generate hf hcol)
  rw [hlatched] at hpack
  have hbytes := generateMeta_bytes hm
  rw [generateMeta_color hcol] at hbytes ⊢
  refine ⟨_, _, hpack, rfl, exec_artifact rfl ?_ hn hf, rfl, ?_, ?_⟩
  · rw [ConfigRegs.artifactSource, ← hbytes]
    rfl
  · rw [finishOk_buf, memWriteAll_generateWrites, generatePackWrites_color hcol]
    rfl
  · rw [← hbytes]
    rfl

end Sys2Proof.Machine
end
